-- ==== Sys2Proof/Word.lean ====
section
/-! DEFINITION. The values of the AES-128 cipher block: bytes, bus words, the 4-byte words of the key schedule
(columns of the state matrix) and 16-byte blocks (00_scope.md R10, R11, R12). -/

namespace Sys2Proof

/-- An unsigned 8-bit value; bit 0 is the least significant (00_scope.md R10). -/
abbrev Byte := BitVec 8

/-- A value of the 32-bit data bus: read data, write data or a command word (00_scope.md R9, 30_encoding.md R300). -/
abbrev Word32 := BitVec 32

/-- A word of 4 bytes, `b0` its leading byte (00_scope.md R12): a word of the key schedule, and a column of the state
matrix read top to bottom (R11). -/
structure Column where
  b0 : Byte
  b1 : Byte
  b2 : Byte
  b3 : Byte
  deriving DecidableEq, Repr, Inhabited

/-- A block of 16 bytes `b[0..15]`, held as the four columns of the state matrix: column `c` is the bytes `4c .. 4c+3`
(00_scope.md R11). -/
structure Block where
  c0 : Column
  c1 : Column
  c2 : Column
  c3 : Column
  deriving DecidableEq, Repr, Inhabited

/-- The 16 zero bytes, the reset value of every data register (70_reset_and_hazards.md R701). -/
def Block.zero : Block :=
  ⟨⟨0, 0, 0, 0⟩, ⟨0, 0, 0, 0⟩, ⟨0, 0, 0, 0⟩, ⟨0, 0, 0, 0⟩⟩

end Sys2Proof
end

