-- ==== Sys2Proof/Syntax.lean ====
section
/-! DEFINITION. The commands of the block, one constructor per row of spec/opcode_table.json (30_encoding.md R305). -/

namespace Sys2Proof

/-- A decoded command (30_encoding.md R305, R306). `ridx` is the round-key index of R302 and `len` the byte count of R303,
as unsigned numbers; `Instr.wf` says that they fit their fields. -/
inductive Instr where
  /-- NOP, OP 0x00 (45_system.md R561) -/
  | nop
  /-- KEYEXP, OP 0x01 (42_key_schedule.md R465) -/
  | keyexp
  /-- RKREAD, OP 0x02 (42_key_schedule.md R466) -/
  | rkread (ridx : Nat)
  /-- ECB_ENC, OP 0x10 (44_modes.md R510) -/
  | ecbEnc (len : Nat)
  /-- ECB_DEC, OP 0x11 (44_modes.md R511) -/
  | ecbDec (len : Nat)
  /-- CBC_ENC, OP 0x12 (44_modes.md R512) -/
  | cbcEnc (len : Nat)
  /-- CBC_DEC, OP 0x13 (44_modes.md R513) -/
  | cbcDec (len : Nat)
  /-- CTR_XCRYPT, OP 0x14 (44_modes.md R514) -/
  | ctrXcrypt (len : Nat)
  /-- SUBBYTES, OP 0x20 (41_round_transforms.md R440) -/
  | subbytes
  /-- INV_SUBBYTES, OP 0x21 (41_round_transforms.md R441) -/
  | invSubbytes
  /-- SHIFTROWS, OP 0x22 (41_round_transforms.md R442) -/
  | shiftrows
  /-- INV_SHIFTROWS, OP 0x23 (41_round_transforms.md R443) -/
  | invShiftrows
  /-- MIXCOLUMNS, OP 0x24 (41_round_transforms.md R444) -/
  | mixcolumns
  /-- INV_MIXCOLUMNS, OP 0x25 (41_round_transforms.md R445) -/
  | invMixcolumns
  /-- ADDROUNDKEY, OP 0x26 (41_round_transforms.md R446) -/
  | addroundkey (ridx : Nat)
  /-- GFMUL, OP 0x30 (40_gf256.md R410) -/
  | gfmul
  deriving DecidableEq, Repr

end Sys2Proof
end

