-- ==== Sys2Proof/WellFormed.lean ====
section
/-! DEFINITION. Which commands a 32-bit command word can hold: the operand fits its field (30_encoding.md R301, R310). An
operand that fits but is outside the legal set of R302 or R303 is well-formed: the command fails at run time (R308). -/

namespace Sys2Proof

/-- RIDX is a 4-bit field, an index 0..15 (30_encoding.md R302). -/
def ridxFits (ridx : Nat) : Bool := decide (ridx < 16)

/-- LEN is a 5-bit field, a count 0..31 (30_encoding.md R303). -/
def lenFits (len : Nat) : Bool := decide (len < 32)

/-- Every operand of the command fits its field of the command word: "an operand value that does not fit its field
(RIDX > 15, LEN > 31)" is refused (30_encoding.md R310). -/
def Instr.wf : Instr → Bool
  | .nop => true
  | .keyexp => true
  | .rkread ridx => ridxFits ridx
  | .ecbEnc len => lenFits len
  | .ecbDec len => lenFits len
  | .cbcEnc len => lenFits len
  | .cbcDec len => lenFits len
  | .ctrXcrypt len => lenFits len
  | .subbytes => true
  | .invSubbytes => true
  | .shiftrows => true
  | .invShiftrows => true
  | .mixcolumns => true
  | .invMixcolumns => true
  | .addroundkey ridx => ridxFits ridx
  | .gfmul => true

end Sys2Proof
end

