-- ==== Sys2Proof/Decode.lean ====
section
/-! DEFINITION. The command word: the opcode map, the decoder (total on every word and on any bytes, rejecting by name) and
the encoder (30_encoding.md R300 to R308; the bus's byte lanes are 20_memory.md R205). -/

namespace Sys2Proof

/-- The mnemonics of the opcode map (30_encoding.md R305). -/
inductive Mnemonic where
  | nop | keyexp | rkread
  | ecbEnc | ecbDec | cbcEnc | cbcDec | ctrXcrypt
  | subbytes | invSubbytes | shiftrows | invShiftrows | mixcolumns | invMixcolumns | addroundkey
  | gfmul
  deriving DecidableEq, Repr

/-- Why a word is illegal (30_encoding.md R307). -/
inductive Illegal where
  /-- the OP field holds a value that is not in the opcode map -/
  | reservedOpcode
  /-- OP is assigned, and a bit outside the command's fields is 1 (R304) -/
  | reservedBit
  /-- fewer than 4 bytes: no command word at all (R300) -/
  | truncated
  deriving DecidableEq, Repr

/-- What the decoder answers: a command with its operands, or ILLEGAL (30_encoding.md R306). -/
inductive Decoded where
  | command (i : Instr)
  | illegal (why : Illegal)
  deriving DecidableEq, Repr

/-- All mnemonics, in the order of the opcode map. -/
def allMnemonics : List Mnemonic :=
  [.nop, .keyexp, .rkread, .ecbEnc, .ecbDec, .cbcEnc, .cbcDec, .ctrXcrypt, .subbytes, .invSubbytes, .shiftrows,
   .invShiftrows, .mixcolumns, .invMixcolumns, .addroundkey, .gfmul]

/-- The OP column of the opcode map (30_encoding.md R305). -/
def Mnemonic.op : Mnemonic → Byte
  | .nop => 0x00
  | .keyexp => 0x01
  | .rkread => 0x02
  | .ecbEnc => 0x10
  | .ecbDec => 0x11
  | .cbcEnc => 0x12
  | .cbcDec => 0x13
  | .ctrXcrypt => 0x14
  | .subbytes => 0x20
  | .invSubbytes => 0x21
  | .shiftrows => 0x22
  | .invShiftrows => 0x23
  | .mixcolumns => 0x24
  | .invMixcolumns => 0x25
  | .addroundkey => 0x26
  | .gfmul => 0x30

/-- The match column of the opcode map (30_encoding.md R305). -/
def Mnemonic.fixedBits : Mnemonic → Word32
  | .nop => 0x00000000
  | .keyexp => 0x00000001
  | .rkread => 0x00000002
  | .ecbEnc => 0x00000010
  | .ecbDec => 0x00000011
  | .cbcEnc => 0x00000012
  | .cbcDec => 0x00000013
  | .ctrXcrypt => 0x00000014
  | .subbytes => 0x00000020
  | .invSubbytes => 0x00000021
  | .shiftrows => 0x00000022
  | .invShiftrows => 0x00000023
  | .mixcolumns => 0x00000024
  | .invMixcolumns => 0x00000025
  | .addroundkey => 0x00000026
  | .gfmul => 0x00000030

/-- The mask column of the opcode map: a 1 in every bit whose value is fixed (30_encoding.md R305). -/
def Mnemonic.mask : Mnemonic → Word32
  | .nop => 0xFFFFFFFF
  | .keyexp => 0xFFFFFFFF
  | .rkread => 0xFFFFF0FF
  | .ecbEnc => 0xFFE0FFFF
  | .ecbDec => 0xFFE0FFFF
  | .cbcEnc => 0xFFE0FFFF
  | .cbcDec => 0xFFE0FFFF
  | .ctrXcrypt => 0xFFE0FFFF
  | .subbytes => 0xFFFFFFFF
  | .invSubbytes => 0xFFFFFFFF
  | .shiftrows => 0xFFFFFFFF
  | .invShiftrows => 0xFFFFFFFF
  | .mixcolumns => 0xFFFFFFFF
  | .invMixcolumns => 0xFFFFFFFF
  | .addroundkey => 0xFFFFF0FF
  | .gfmul => 0xFFFFFFFF

/-- The command of a mnemonic with the operands of the word; a command takes only the fields it uses
(30_encoding.md R305). -/
def Mnemonic.command (m : Mnemonic) (ridx len : Nat) : Instr :=
  match m with
  | .nop => .nop
  | .keyexp => .keyexp
  | .rkread => .rkread ridx
  | .ecbEnc => .ecbEnc len
  | .ecbDec => .ecbDec len
  | .cbcEnc => .cbcEnc len
  | .cbcDec => .cbcDec len
  | .ctrXcrypt => .ctrXcrypt len
  | .subbytes => .subbytes
  | .invSubbytes => .invSubbytes
  | .shiftrows => .shiftrows
  | .invShiftrows => .invShiftrows
  | .mixcolumns => .mixcolumns
  | .invMixcolumns => .invMixcolumns
  | .addroundkey => .addroundkey ridx
  | .gfmul => .gfmul

/-- OP, bits 7:0 of the command word (30_encoding.md R301). -/
def opField (w : Word32) : Byte := w.extractLsb' 0 8

/-- RIDX, bits 11:8, zero-extended (30_encoding.md R301, R302). -/
def ridxField (w : Word32) : Nat := (w.extractLsb' 8 4).toNat

/-- LEN, bits 20:16, zero-extended (30_encoding.md R301, R303). -/
def lenField (w : Word32) : Nat := (w.extractLsb' 16 5).toNat

/-- The row of the opcode map an OP value selects; none for a reserved value (30_encoding.md R306, R307). -/
def mnemonicOf (op : Byte) : Option Mnemonic := allMnemonics.find? (fun m => m.op == op)

/-- Decode (30_encoding.md R306): the OP value selects a row, and the bits that the row fixes must have their values. -/
def decodeWord (w : Word32) : Decoded :=
  match mnemonicOf (opField w) with
  | none => .illegal .reservedOpcode
  | some m =>
    if w &&& m.mask = m.fixedBits then .command (m.command (ridxField w) (lenField w))
    else .illegal .reservedBit

/-- Byte `k` of a bus word: bits `[8k+7:8k]` (20_memory.md R205). -/
def lane (w : Word32) (k : Nat) : Byte := w.extractLsb' (8 * k) 8

/-- The bus word whose byte lanes 0, 1, 2, 3 are the arguments (20_memory.md R205). -/
def joinLanes (d0 d1 d2 d3 : Byte) : Word32 := d3 ++ d2 ++ d1 ++ d0

/-- The decoder on bytes, lowest address first: it reads exactly one command word (30_encoding.md R300) and gives back the
bytes after it. -/
def decodeBytes : List Byte → Decoded × List Byte
  | d0 :: d1 :: d2 :: d3 :: rest => (decodeWord (joinLanes d0 d1 d2 d3), rest)
  | short => (.illegal .truncated, short)

/-- The row of the opcode map a command comes from. -/
def Instr.mnemonic : Instr → Mnemonic
  | .nop => .nop
  | .keyexp => .keyexp
  | .rkread _ => .rkread
  | .ecbEnc _ => .ecbEnc
  | .ecbDec _ => .ecbDec
  | .cbcEnc _ => .cbcEnc
  | .cbcDec _ => .cbcDec
  | .ctrXcrypt _ => .ctrXcrypt
  | .subbytes => .subbytes
  | .invSubbytes => .invSubbytes
  | .shiftrows => .shiftrows
  | .invShiftrows => .invShiftrows
  | .mixcolumns => .mixcolumns
  | .invMixcolumns => .invMixcolumns
  | .addroundkey _ => .addroundkey
  | .gfmul => .gfmul

/-- The RIDX operand; 0 for a command that does not use the field (30_encoding.md R304). -/
def Instr.ridx : Instr → Nat
  | .rkread ridx => ridx
  | .addroundkey ridx => ridx
  | .nop => 0
  | .keyexp => 0
  | .ecbEnc _ => 0
  | .ecbDec _ => 0
  | .cbcEnc _ => 0
  | .cbcDec _ => 0
  | .ctrXcrypt _ => 0
  | .subbytes => 0
  | .invSubbytes => 0
  | .shiftrows => 0
  | .invShiftrows => 0
  | .mixcolumns => 0
  | .invMixcolumns => 0
  | .gfmul => 0

/-- The LEN operand; 0 for a command that does not use the field (30_encoding.md R304). -/
def Instr.len : Instr → Nat
  | .ecbEnc len => len
  | .ecbDec len => len
  | .cbcEnc len => len
  | .cbcDec len => len
  | .ctrXcrypt len => len
  | .nop => 0
  | .keyexp => 0
  | .rkread _ => 0
  | .subbytes => 0
  | .invSubbytes => 0
  | .shiftrows => 0
  | .invShiftrows => 0
  | .mixcolumns => 0
  | .invMixcolumns => 0
  | .addroundkey _ => 0
  | .gfmul => 0

/-- The command word of a well-formed command: `OP | ridx << 8 | len << 16` (30_encoding.md R301, R310). -/
def encode (i : Instr) : Word32 :=
  i.mnemonic.fixedBits ||| (BitVec.ofNat 32 i.ridx <<< 8) ||| (BitVec.ofNat 32 i.len <<< 16)

/-- The bytes of a command word whose low `nbits` bits are `w` and whose other bits are 0, in the order of the bus's byte
lanes. -/
def tableBytes (nbits w : Nat) : List Byte :=
  let v : Word32 := BitVec.ofNat 32 (w % 2 ^ nbits)
  [lane v 0, lane v 1, lane v 2, lane v 3]

/-- The command the decoder reads from a word given in the opcode table's numbering (bit 0 the least significant). -/
def decodeTableWord (nbits w : Nat) : Option Instr :=
  match (decodeBytes (tableBytes nbits w)).1 with
  | .command i => some i
  | .illegal _ => none

end Sys2Proof
end

