-- ==== Sys2Proof/Machine/Blocks.lean ====
section
/-! DEFINITION. Bytes of words and blocks: the state matrix and its byte order (00_scope.md R10, R11, R12, R13). -/

namespace Sys2Proof

/-- Row `r` of a column, counted from the top: byte `r` of the word (00_scope.md R11, R12). -/
def Column.row (w : Column) (r : Fin 4) : Byte :=
  match r with
  | 0 => w.b0
  | 1 => w.b1
  | 2 => w.b2
  | 3 => w.b3

/-- XOR of two words, byte by byte (00_scope.md R13). -/
def Column.xor (v w : Column) : Column :=
  ⟨v.b0 ^^^ w.b0, v.b1 ^^^ w.b1, v.b2 ^^^ w.b2, v.b3 ^^^ w.b3⟩

/-- One function on each of the 4 bytes of a word. -/
def Column.mapBytes (f : Byte → Byte) (w : Column) : Column := ⟨f w.b0, f w.b1, f w.b2, f w.b3⟩

/-- Column `c` of the state matrix (00_scope.md R11). -/
def Block.column (b : Block) (c : Fin 4) : Column :=
  match c with
  | 0 => b.c0
  | 1 => b.c1
  | 2 => b.c2
  | 3 => b.c3

/-- `s[r][c]`, the byte in row `r` and column `c` of the state matrix (00_scope.md R11). -/
def Block.cell (b : Block) (r c : Fin 4) : Byte := (b.column c).row r

/-- The block whose state matrix has `f r c` in row `r` and column `c`. -/
def Block.ofCells (f : Fin 4 → Fin 4 → Byte) : Block :=
  ⟨⟨f 0 0, f 1 0, f 2 0, f 3 0⟩, ⟨f 0 1, f 1 1, f 2 1, f 3 1⟩, ⟨f 0 2, f 1 2, f 2 2, f 3 2⟩, ⟨f 0 3, f 1 3, f 2 3, f 3 3⟩⟩

/-- Byte `i` of a block, `b[i]`; it is `s[r][c]` for `i = r + 4c` (00_scope.md R11). -/
def Block.byte (b : Block) (i : Fin 16) : Byte :=
  b.cell ⟨i.val % 4, Nat.mod_lt _ (by decide)⟩ ⟨i.val / 4, Nat.div_lt_of_lt_mul (by omega)⟩

/-- The block of 16 bytes `f 0 .. f 15`. -/
def Block.ofBytes (f : Fin 16 → Byte) : Block :=
  ⟨⟨f 0, f 1, f 2, f 3⟩, ⟨f 4, f 5, f 6, f 7⟩, ⟨f 8, f 9, f 10, f 11⟩, ⟨f 12, f 13, f 14, f 15⟩⟩

/-- The block with byte `i` replaced by `v`. -/
def Block.setByte (b : Block) (i : Fin 16) (v : Byte) : Block :=
  Block.ofBytes fun j => if j = i then v else b.byte j

/-- XOR of two blocks, byte by byte (00_scope.md R13). -/
def Block.xor (a b : Block) : Block :=
  ⟨a.c0.xor b.c0, a.c1.xor b.c1, a.c2.xor b.c2, a.c3.xor b.c3⟩

/-- One function on each of the 16 bytes. -/
def Block.mapBytes (f : Byte → Byte) (b : Block) : Block :=
  ⟨b.c0.mapBytes f, b.c1.mapBytes f, b.c2.mapBytes f, b.c3.mapBytes f⟩

/-- One function on each of the 4 columns. -/
def Block.mapColumns (f : Column → Column) (b : Block) : Block := ⟨f b.c0, f b.c1, f b.c2, f b.c3⟩

/-- The 16 bytes of a block in order. -/
def Block.toBytes (b : Block) : List Byte :=
  [b.c0.b0, b.c0.b1, b.c0.b2, b.c0.b3, b.c1.b0, b.c1.b1, b.c1.b2, b.c1.b3,
   b.c2.b0, b.c2.b1, b.c2.b2, b.c2.b3, b.c3.b0, b.c3.b1, b.c3.b2, b.c3.b3]

/-- The word written as 8 hex digits, first byte leftmost (00_scope.md R10). -/
def Column.ofHex (h : BitVec 32) : Column :=
  ⟨h.extractLsb' 24 8, h.extractLsb' 16 8, h.extractLsb' 8 8, h.extractLsb' 0 8⟩

/-- The block written as 32 hex digits, first byte leftmost (00_scope.md R10: `00112233...` has byte 0 = 0x00). -/
def Block.ofHex (h : BitVec 128) : Block :=
  ⟨Column.ofHex (h.extractLsb' 96 32), Column.ofHex (h.extractLsb' 64 32), Column.ofHex (h.extractLsb' 32 32),
   Column.ofHex (h.extractLsb' 0 32)⟩

end Sys2Proof
end

