-- ==== Sys2Proof/Config.lean ====
section
/-! DEFINITION. The free values of the model: what the spec leaves unspecified. Each is an opaque constant, so no proof
can see it and every statement holds for whatever it is (93_implementation_defined.md I13, I14). AES_BASE, the one
platform parameter, is an argument of `Machine.windowOffset` (20_memory.md R200). -/

namespace Sys2Proof

/-- The content of the round-key file RK after the n-th reset: "Reset value: unspecified. A model must not give RK a
value at reset" (10_state.md R109; 93_implementation_defined.md I13: any value). Log entry 1; DESIGN CHOICE of the form. -/
opaque Config.resetRk : Nat → Vector Block 11

/-- The leading byte of Rcon[0]: "Entry 0 is never read" (42_key_schedule.md R462; 93_implementation_defined.md I14: any
value). Log entry 2; DESIGN CHOICE of the form. -/
opaque Config.rcon0 : Byte

end Sys2Proof
end

