-- ==== Sys2Proof/Machine/State.lean ====
section
/-! DEFINITION. The state of the block (10_state.md R100 to R115), the host's side of its interface, the reasons a step can
stop, and the state after reset (70_reset_and_hazards.md R701). -/

namespace Sys2Proof.Machine

/-- The result codes of a command by name (60_exceptions.md R600); `errCode` gives the numbers. -/
inductive CmdStatus where
  /-- the command succeeded -/
  | ok
  /-- a reserved OP, or a 1 in a reserved or unused bit -/
  | illegal
  /-- RIDX above 10 -/
  | ridx
  /-- LEN outside the command's legal set -/
  | length
  /-- RK_VALID is 0: no key schedule for the current KEY -/
  | noKey
  deriving DecidableEq, Repr

/-- One bus access of the host, the transaction `(kind, width, offset, value)` of 30_encoding.md R309: the offset lies in
the 256-byte window and the width is in bytes. The bus has 32 data lanes (00_scope.md R9); a width other than 1 or 4 is
refused whatever its data (20_memory.md R209). -/
inductive Access where
  | read (width : Nat) (off : BitVec 8)
  | write (width : Nat) (off : BitVec 8) (value : Word32)
  deriving DecidableEq, Repr

/-- What the outside world does next: a bus access of the one host (20_memory.md R213), or a reset pulse of the platform
(70_reset_and_hazards.md R700). -/
inductive HostEvent where
  | access (a : Access)
  | reset
  deriving DecidableEq, Repr

/-- The value an admitted read returns: one byte or one 32-bit word (20_memory.md R205). -/
inductive BusValue where
  | byte (v : Byte)
  | word (v : Word32)
  deriving DecidableEq, Repr

/-- The whole architectural state (10_state.md R115), then the host's side of the interface. CMD has no storage (R107); the
working state of a command is no state (R112). -/
structure State where
  /-- CTRL.CTR_LE, the byte order of the CTR counter (R105) -/
  ctrLe : Bool
  /-- STATUS.ERR, the result code of the last command (R106) -/
  err : Byte
  /-- STATUS.RK_VALID (R106, R110, R111) -/
  rkValid : Bool
  /-- the round-key file RK[0..10], not on the bus (R109) -/
  rk : Vector Block 11
  /-- GF.A, the first operand (R108) -/
  gfA : Byte
  /-- GF.B, the second operand (R108) -/
  gfB : Byte
  /-- GF.P, the product (R108) -/
  gfP : Byte
  /-- KEY, the cipher key (R100) -/
  key : Block
  /-- IV, the chaining value; for CTR the nonce and the counter (R101) -/
  iv : Block
  /-- DIN, the input block (R102) -/
  din : Block
  /-- DOUT, the output block (R103) -/
  dout : Block
  /-- ST, the state matrix of the single-transform commands (R104) -/
  st : Block
  /-- The model's own field: the events the outside world has still to perform, oldest first
  (30_encoding.md R309; 70_reset_and_hazards.md R710). -/
  pending : List HostEvent
  /-- The model's own field: the values the reads of the run have returned, oldest first (70_reset_and_hazards.md R710). -/
  reads : List BusValue
  /-- The model's own field: the reset pulses taken so far; it draws a fresh free value for RK at each. -/
  resets : Nat
  deriving DecidableEq, Repr

/-- Why the machine stops. -/
inductive Fault where
  /-- Raised by a host access the block does not admit: a width other than 1 or 4, a misaligned 4-byte access, a 1-byte
  write to CMD (20_memory.md R209). The spec's own fault, safe: the run has no result from there on. -/
  | busError
  /-- Raised by a step with no event left: the run has ended (70_reset_and_hazards.md R710). Safe: the model stops and
  nothing is claimed of what follows. -/
  | endOfRun
  deriving DecidableEq, Repr

/-- Why a step has no meaning. -/
inductive Refusal where
  /-- Raised by an arm of `exec` whose instruction has no meaning yet; no arm raises it in this model. Safe. -/
  | notModelled (mnemonic : String)
  deriving DecidableEq, Repr

/-- The outcome of one step or of one command. -/
abbrev Result := Host.Outcome State Fault Refusal

/-- The block right after the n-th reset, with the host's list of events and the values it has read so far
(70_reset_and_hazards.md R701). RK is the free value of log entry 1. -/
def State.afterReset (n : Nat) (pending : List HostEvent) (reads : List BusValue) : State where
  ctrLe := true
  err := 0x00
  rkValid := false
  rk := Config.resetRk n
  gfA := 0x00
  gfB := 0x00
  gfP := 0x00
  key := Block.zero
  iv := Block.zero
  din := Block.zero
  dout := Block.zero
  st := Block.zero
  pending := pending
  reads := reads
  resets := n

/-- The machine right after power-on reset: the table of 70_reset_and_hazards.md R701, with no host program loaded (log
entry 3). -/
def State.reset : State := State.afterReset 0 [] []

end Sys2Proof.Machine
end

