-- ==== Sys2Proof/Machine/Flags.lean ====
section
/-! DEFINITION. The status and control fields as the bus sees them: the result codes of STATUS.ERR and the one-bit fields
zero-extended to a byte (60_exceptions.md R600; 20_memory.md R207). The block has no condition codes (10_state.md R113). -/

namespace Sys2Proof.Machine

/-- The code written to STATUS.ERR (60_exceptions.md R600). -/
def errCode : CmdStatus → Byte
  | .ok => 0x00
  | .illegal => 0x01
  | .ridx => 0x02
  | .length => 0x03
  | .noKey => 0x04

/-- A one-bit field zero-extended to a byte, `zext_8` (00_scope.md R15). -/
def flagByte (b : Bool) : Byte := if b then 0x01 else 0x00

/-- The CTR_LE bit of a byte written to offset 0x00: bit 0; bits 7:1 are ignored (20_memory.md R208). -/
def ctrLeOf (d : Byte) : Bool := d.getLsbD 0

end Sys2Proof.Machine
end

