-- ==== Sys2Proof/Machine/Ops.lean ====
section
/-! DEFINITION. The named operations over the registers, the one way a command fails (`raise CmdError`, the only exception
the block has: 60_exceptions.md R601, R606) and the reset event (70_reset_and_hazards.md R700). There is no return from an
exception: nothing is saved and nothing is restored (60_exceptions.md R607). -/

namespace Sys2Proof.Machine

/-- CTRL.CTR_LE <- v (10_state.md R105) -/
def State.setCtrLe (s : State) (v : Bool) : State := { s with ctrLe := v }
/-- STATUS.ERR <- v (10_state.md R106) -/
def State.setErr (s : State) (v : Byte) : State := { s with err := v }
/-- RK_VALID <- v (10_state.md R111) -/
def State.setRkValid (s : State) (v : Bool) : State := { s with rkValid := v }
/-- RK[0..10] <- v (10_state.md R109) -/
def State.setRk (s : State) (v : Vector Block 11) : State := { s with rk := v }
/-- GF.A <- v (10_state.md R108) -/
def State.setGfA (s : State) (v : Byte) : State := { s with gfA := v }
/-- GF.B <- v (10_state.md R108) -/
def State.setGfB (s : State) (v : Byte) : State := { s with gfB := v }
/-- GF.P <- v (10_state.md R108) -/
def State.setGfP (s : State) (v : Byte) : State := { s with gfP := v }
/-- KEY <- v (10_state.md R100) -/
def State.setKey (s : State) (v : Block) : State := { s with key := v }
/-- IV <- v (10_state.md R101) -/
def State.setIv (s : State) (v : Block) : State := { s with iv := v }
/-- DIN <- v (10_state.md R102) -/
def State.setDin (s : State) (v : Block) : State := { s with din := v }
/-- DOUT <- v (10_state.md R103) -/
def State.setDout (s : State) (v : Block) : State := { s with dout := v }
/-- ST <- v (10_state.md R104) -/
def State.setSt (s : State) (v : Block) : State := { s with st := v }
/-- The events still to come. -/
def State.setPending (s : State) (v : List HostEvent) : State := { s with pending := v }
/-- A read has returned `v` (70_reset_and_hazards.md R710). -/
def State.recordRead (s : State) (v : BusValue) : State := { s with reads := s.reads ++ [v] }

/-- `raise CmdError(code)`: `STATUS.ERR <- code` and nothing else changes (60_exceptions.md R601; 00_scope.md R15). -/
def raiseCmdError (code : CmdStatus) (s : State) : State := s.setErr (errCode code)

/-- The end of a successful command: `STATUS.ERR <- 0x00` (45_system.md R560). -/
def succeed (s : State) : State := s.setErr (errCode .ok)

/-- A host write that stores into byte `i` of KEY: the byte is stored and RK_VALID cleared, whether or not the byte's value
changes (10_state.md R100, R111). -/
def writeKeyByte (i : Fin 16) (d : Byte) (s : State) : State := (s.setKey (s.key.setByte i d)).setRkValid false

/-- A reset pulse: every register takes its reset value (70_reset_and_hazards.md R700, R701); RK is unspecified afresh. The
host's own list of events and the values it has read are not the block's and stay. -/
def takeReset (s : State) : State := State.afterReset (s.resets + 1) s.pending s.reads

end Sys2Proof.Machine
end

