-- ==== Sys2Proof/Machine/Operands.lean ====
section
/-! DEFINITION. The two operand forms, RIDX and LEN, their legal sets (30_encoding.md R302, R303), and the order of the
checks a command with an operand makes (60_exceptions.md R602). -/

namespace Sys2Proof.Machine

/-- The legal values of RIDX are 0..10 (30_encoding.md R302). -/
def ridxLegal (ridx : Nat) : Bool := decide (ridx ≤ 10)

/-- The legal LEN of ECB_ENC, ECB_DEC, CBC_ENC and CBC_DEC is 16 (30_encoding.md R303). -/
def wholeBlock (len : Nat) : Bool := decide (len = 16)

/-- The legal LEN of CTR_XCRYPT is 1..16 (30_encoding.md R303). -/
def partialBlock (len : Nat) : Bool := decide (1 ≤ len ∧ len ≤ 16)

/-- `RK[ridx]` for a legal index; an index above 10 never reaches it (10_state.md R109; 30_encoding.md R302). -/
def roundKey (rk : Vector Block 11) (ridx : Nat) : Block := rk.get (Fin.ofNat 11 ridx)

/-- A command that uses the round keys: its operand check, then RK_VALID, then the effect and `STATUS.ERR <- 0x00`
(60_exceptions.md R602; 45_system.md R560). -/
def withSchedule (fieldOk : Bool) (fieldError : CmdStatus) (effect : State → State) (s : State) : State :=
  if fieldOk then
    if s.rkValid then succeed (effect s) else raiseCmdError .noKey s
  else raiseCmdError fieldError s

/-- A command with a RIDX operand: `effect` takes the round key `RK[ridx]` (42_key_schedule.md R466;
41_round_transforms.md R446). -/
def withRoundKey (ridx : Nat) (effect : Block → State → State) (s : State) : State :=
  withSchedule (ridxLegal ridx) .ridx (fun u => effect (roundKey u.rk ridx) u) s

/-- A mode command on a whole block (44_modes.md R510 to R513). -/
def withWholeBlock (len : Nat) (effect : State → State) (s : State) : State :=
  withSchedule (wholeBlock len) .length effect s

/-- A mode command on 1 to 16 bytes (44_modes.md R514). -/
def withPartialBlock (len : Nat) (effect : State → State) (s : State) : State :=
  withSchedule (partialBlock len) .length effect s

/-- A command that needs no round keys and has no operand: its effect and `STATUS.ERR <- 0x00` (45_system.md R560). -/
def always (effect : State → State) (s : State) : State := succeed (effect s)

end Sys2Proof.Machine
end

