-- ==== Sys2Proof/Machine/Gf256.lean ====
section
/-! DEFINITION. GF(2^8) arithmetic and the GFMUL command (40_gf256.md R400 to R410). Addition is XOR (R401). -/

namespace Sys2Proof.Machine

/-- Multiply by 2: "a left shift with conditional XOR of 0x1B when the high bit was set" (40_gf256.md R402). -/
def xtime (a : Byte) : Byte := if a.getLsbD 7 then (a <<< 1) ^^^ 0x1B else a <<< 1

/-- One turn of the loop of `gmul`: `acc` is the pair `(p, a)` (40_gf256.md R403). -/
def gmulTurn (b : Byte) (acc : Byte × Byte) (i : Nat) : Byte × Byte :=
  (if b.getLsbD i then acc.1 ^^^ acc.2 else acc.1, xtime acc.2)

/-- `a ⊗ b`, multiplication in GF(2^8) by shift and add over the bits of `b` (40_gf256.md R403). -/
def gmul (a b : Byte) : Byte := ([0, 1, 2, 3, 4, 5, 6, 7].foldl (gmulTurn b) (0x00, a)).1

/-- The product of the polynomials of two bytes, coefficients in GF(2): bit `i` is the coefficient of `x^i`
(40_gf256.md R400). -/
def polyMul (a b : Byte) : BitVec 16 :=
  [0, 1, 2, 3, 4, 5, 6, 7].foldl (fun p i => if b.getLsbD i then p ^^^ (a.setWidth 16 <<< i) else p) 0

/-- The remainder of a polynomial of degree at most 14 modulo `m(x) = x^8 + x^4 + x^3 + x + 1`, 0x11B
(40_gf256.md R400): the terms of degree 14 down to 8 are cancelled in turn. -/
def polyMod (p : BitVec 16) : Byte :=
  ([6, 5, 4, 3, 2, 1, 0].foldl (fun q i => if q.getLsbD (8 + i) then q ^^^ ((0x11B : BitVec 16) <<< i) else q) p).setWidth 8

/-- The square `a ⊗ a`. -/
def gsquare (a : Byte) : Byte := gmul a a

/-- The multiplicative inverse: for `a` other than 0x00 the byte `b` with `a ⊗ b = 0x01`, and 0x00 for 0x00
(40_gf256.md R404). It is computed as the power `a^254 = a^2 ⊗ a^4 ⊗ a^8 ⊗ .. ⊗ a^128`, an inverse because the field has 255
elements other than 0x00 (log entry 12; DEDUCED). -/
def ginv (a : Byte) : Byte :=
  let a2 := gsquare a
  let a4 := gsquare a2
  let a8 := gsquare a4
  let a16 := gsquare a8
  let a32 := gsquare a16
  let a64 := gsquare a32
  let a128 := gsquare a64
  gmul (gmul (gmul (gmul (gmul (gmul a2 a4) a8) a16) a32) a64) a128

/-- GFMUL: `GF.P <- gmul(GF.A, GF.B)` (40_gf256.md R410). -/
def execGfmul (s : State) : Result := .next (always (fun u => u.setGfP (gmul u.gfA u.gfB)) s)

end Sys2Proof.Machine
end

