-- ==== Sys2Proof/Machine/RoundTransforms.lean ====
section
/-! DEFINITION. The S-box, the round transforms as functions of a state, and the single-transform commands
(41_round_transforms.md R420 to R446). -/

namespace Sys2Proof.Machine

/-- Byte `i` of a table row written as 32 hex digits, first byte leftmost. -/
def rowByte (row : BitVec 128) (i : Nat) : Byte := row.extractLsb' (8 * (15 - i)) 8

/-- The 16 rows of the S-box table, as it stands in 41_round_transforms.md R420. -/
def sboxRow : Nat → BitVec 128
  | 0 => 0x637c777bf26b6fc53001672bfed7ab76
  | 1 => 0xca82c97dfa5947f0add4a2af9ca472c0
  | 2 => 0xb7fd9326363ff7cc34a5e5f171d83115
  | 3 => 0x04c723c31896059a071280e2eb27b275
  | 4 => 0x09832c1a1b6e5aa0523bd6b329e32f84
  | 5 => 0x53d100ed20fcb15b6acbbe394a4c58cf
  | 6 => 0xd0efaafb434d338545f9027f503c9fa8
  | 7 => 0x51a3408f929d38f5bcb6da2110fff3d2
  | 8 => 0xcd0c13ec5f974417c4a77e3d645d1973
  | 9 => 0x60814fdc222a908846eeb814de5e0bdb
  | 10 => 0xe0323a0a4906245cc2d3ac629195e479
  | 11 => 0xe7c8376d8dd54ea96c56f4ea657aae08
  | 12 => 0xba78252e1ca6b4c6e8dd741f4bbd8b8a
  | 13 => 0x703eb5664803f60e613557b986c11d9e
  | 14 => 0xe1f8981169d98e949b1e87e9ce5528df
  | _ => 0x8ca1890dbfe6426841992d0fb054bb16
/-- `SBOX[x]`, row the high hex digit of `x`, column the low digit (41_round_transforms.md R420). -/
def sbox (x : Byte) : Byte := rowByte (sboxRow (x.toNat / 16)) (x.toNat % 16)

/-- The derivation of the S-box table: the inverse, then the affine map with constant 0x63 (41_round_transforms.md R421). -/
def sboxDerived (x : Byte) : Byte :=
  let b := ginv x
  b ^^^ b.rotateLeft 1 ^^^ b.rotateLeft 2 ^^^ b.rotateLeft 3 ^^^ b.rotateLeft 4 ^^^ 0x63

/-- The 16 rows of the inverse S-box table, as it stands in 41_round_transforms.md R422. -/
def invSboxRow : Nat → BitVec 128
  | 0 => 0x52096ad53036a538bf40a39e81f3d7fb
  | 1 => 0x7ce339829b2fff87348e4344c4dee9cb
  | 2 => 0x547b9432a6c2233dee4c950b42fac34e
  | 3 => 0x082ea16628d924b2765ba2496d8bd125
  | 4 => 0x72f8f66486689816d4a45ccc5d65b692
  | 5 => 0x6c704850fdedb9da5e154657a78d9d84
  | 6 => 0x90d8ab008cbcd30af7e45805b8b34506
  | 7 => 0xd02c1e8fca3f0f02c1afbd0301138a6b
  | 8 => 0x3a9111414f67dcea97f2cfcef0b4e673
  | 9 => 0x96ac7422e7ad3585e2f937e81c75df6e
  | 10 => 0x47f11a711d29c5896fb7620eaa18be1b
  | 11 => 0xfc563e4bc6d279209adbc0fe78cd5af4
  | 12 => 0x1fdda8338807c731b11210592780ec5f
  | 13 => 0x60517fa919b54a0d2de57a9f93c99cef
  | 14 => 0xa0e03b4dae2af5b0c8ebbb3c83539961
  | _ => 0x172b047eba77d626e169146355210c7d
/-- `INV_SBOX[x]` (41_round_transforms.md R422). -/
def invSbox (x : Byte) : Byte := rowByte (invSboxRow (x.toNat / 16)) (x.toNat % 16)

/-- SubBytes: the S-box on each of the 16 bytes (41_round_transforms.md R423). -/
def subBytes (s : Block) : Block := s.mapBytes sbox

/-- InvSubBytes (41_round_transforms.md R424). -/
def invSubBytes (s : Block) : Block := s.mapBytes invSbox

/-- ShiftRows: row `r` is cyclically left-rotated by `r` positions; the column index is taken mod 4
(41_round_transforms.md R425). -/
def shiftRows (s : Block) : Block := Block.ofCells fun r c => s.cell r (c + r)

/-- InvShiftRows: row `r` is rotated right by `r` (41_round_transforms.md R426). -/
def invShiftRows (s : Block) : Block := Block.ofCells fun r c => s.cell r (c - r)

/-- MixColumns on one column: the circulant of 2, 3, 1, 1 over GF(2^8) (41_round_transforms.md R427). -/
def mixColumn (a : Column) : Column :=
  ⟨gmul 0x02 a.b0 ^^^ gmul 0x03 a.b1 ^^^ a.b2 ^^^ a.b3,
   a.b0 ^^^ gmul 0x02 a.b1 ^^^ gmul 0x03 a.b2 ^^^ a.b3,
   a.b0 ^^^ a.b1 ^^^ gmul 0x02 a.b2 ^^^ gmul 0x03 a.b3,
   gmul 0x03 a.b0 ^^^ a.b1 ^^^ a.b2 ^^^ gmul 0x02 a.b3⟩

/-- MixColumns: each column by itself (41_round_transforms.md R427). -/
def mixColumns (s : Block) : Block := s.mapColumns mixColumn

/-- InvMixColumns: MixColumns three times in succession, the normative definition (41_round_transforms.md R428). -/
def invMixColumns (s : Block) : Block := mixColumns (mixColumns (mixColumns s))

/-- The inverse matrix of FIPS-197 on one column, stated to agree with R428 (41_round_transforms.md R429). -/
def invMixColumnMatrix (a : Column) : Column :=
  ⟨gmul 0x0e a.b0 ^^^ gmul 0x0b a.b1 ^^^ gmul 0x0d a.b2 ^^^ gmul 0x09 a.b3,
   gmul 0x09 a.b0 ^^^ gmul 0x0e a.b1 ^^^ gmul 0x0b a.b2 ^^^ gmul 0x0d a.b3,
   gmul 0x0d a.b0 ^^^ gmul 0x09 a.b1 ^^^ gmul 0x0e a.b2 ^^^ gmul 0x0b a.b3,
   gmul 0x0b a.b0 ^^^ gmul 0x0d a.b1 ^^^ gmul 0x09 a.b2 ^^^ gmul 0x0e a.b3⟩

/-- AddRoundKey: XOR with a 16-byte round key (41_round_transforms.md R430). -/
def addRoundKey (s k : Block) : Block := s.xor k

/-- A single-transform command without a key: `ST <- f(ST)` (41_round_transforms.md R440 to R445). -/
def transformSt (f : Block → Block) (s : State) : State := always (fun u => u.setSt (f u.st)) s

/-- SUBBYTES (41_round_transforms.md R440) -/
def execSubbytes (s : State) : Result := .next (transformSt subBytes s)

/-- INV_SUBBYTES (41_round_transforms.md R441) -/
def execInvSubbytes (s : State) : Result := .next (transformSt invSubBytes s)

/-- SHIFTROWS (41_round_transforms.md R442) -/
def execShiftrows (s : State) : Result := .next (transformSt shiftRows s)

/-- INV_SHIFTROWS (41_round_transforms.md R443) -/
def execInvShiftrows (s : State) : Result := .next (transformSt invShiftRows s)

/-- MIXCOLUMNS (41_round_transforms.md R444) -/
def execMixcolumns (s : State) : Result := .next (transformSt mixColumns s)

/-- INV_MIXCOLUMNS (41_round_transforms.md R445) -/
def execInvMixcolumns (s : State) : Result := .next (transformSt invMixColumns s)

/-- ADDROUNDKEY: `ST <- AddRoundKey(ST, RK[ridx])` (41_round_transforms.md R446) -/
def execAddroundkey (ridx : Nat) (s : State) : Result :=
  .next (withRoundKey ridx (fun k u => u.setSt (addRoundKey u.st k)) s)

end Sys2Proof.Machine
end

