-- ==== Sys2Proof/Machine/KeySchedule.lean ====
section
/-! DEFINITION. The key schedule and its commands KEYEXP and RKREAD (42_key_schedule.md R460 to R466). -/

namespace Sys2Proof.Machine

/-- RotWord: the leading byte moves to the last position (42_key_schedule.md R460). -/
def rotWord (w : Column) : Column := ⟨w.b1, w.b2, w.b3, w.b0⟩

/-- SubWord: the S-box on each byte (42_key_schedule.md R461). -/
def subWord (w : Column) : Column := w.mapBytes sbox

/-- The leading byte `rc_i` of Rcon[i], a table of 11 entries (42_key_schedule.md R462). Entry 0 is the free value
`Config.rcon0`, which nothing reads; an index above 10 is outside the table and is never used, and no value is chosen for it
either. -/
def rconByte : Nat → Byte
  | 0 => Config.rcon0
  | 1 => 0x01
  | 2 => 0x02
  | 3 => 0x04
  | 4 => 0x08
  | 5 => 0x10
  | 6 => 0x20
  | 7 => 0x40
  | 8 => 0x80
  | 9 => 0x1B
  | 10 => 0x36
  | _ => Config.rcon0

/-- Rcon[i]: the constant in the leading byte (42_key_schedule.md R462). -/
def rcon (i : Nat) : Column := ⟨rconByte i, 0x00, 0x00, 0x00⟩

/-- Round key `i` from round key `i-1`: its first word is
`SubWord(RotWord(lastWordOfRound(i-1))) XOR Rcon[i] XOR firstWordOfRound(i-1)`, each following word the XOR of the
corresponding word of the previous round key and the just-computed word (42_key_schedule.md R463). -/
def nextRoundKey (i : Nat) (prev : Block) : Block :=
  let w0 := ((subWord (rotWord prev.c3)).xor (rcon i)).xor prev.c0
  let w1 := prev.c1.xor w0
  let w2 := prev.c2.xor w1
  let w3 := prev.c3.xor w2
  ⟨w0, w1, w2, w3⟩

/-- Round key `r` of the schedule of `key`: words `4r .. 4r+3` of KeyExpansion(key) (42_key_schedule.md R463, R464). -/
def scheduleKey (key : Block) : Nat → Block
  | 0 => key
  | r + 1 => nextRoundKey (r + 1) (scheduleKey key r)

/-- KeyExpansion(key) as the 11 round keys (42_key_schedule.md R463, R464). -/
def keyExpansion (key : Block) : Vector Block 11 :=
  #v[scheduleKey key 0, scheduleKey key 1, scheduleKey key 2, scheduleKey key 3, scheduleKey key 4, scheduleKey key 5,
     scheduleKey key 6, scheduleKey key 7, scheduleKey key 8, scheduleKey key 9, scheduleKey key 10]

/-- KEYEXP: `RK <- KeyExpansion(KEY)`, `RK_VALID <- 1` (42_key_schedule.md R465). -/
def execKeyexp (s : State) : Result := .next (always (fun u => (u.setRk (keyExpansion u.key)).setRkValid true) s)

/-- RKREAD: `ST <- RK[ridx]` (42_key_schedule.md R466). -/
def execRkread (ridx : Nat) (s : State) : Result := .next (withRoundKey ridx (fun k u => u.setSt k) s)

end Sys2Proof.Machine
end

