-- ==== Sys2Proof/Machine/BlockCipher.lean ====
section
/-! DEFINITION. Cipher and InvCipher, pure functions of one block and a schedule of 11 round keys (43_block_cipher.md R480,
R481). The working state is a local value (10_state.md R112). -/

namespace Sys2Proof.Machine

/-- One of the rounds 1..9 of encryption with its round key (43_block_cipher.md R480). -/
def cipherRound (s k : Block) : Block := addRoundKey (mixColumns (shiftRows (subBytes s))) k

/-- Cipher(p, rk): the initial AddRoundKey, rounds 1..9, and the final round without MixColumns (43_block_cipher.md R480). -/
def cipher (p : Block) (rk : Vector Block 11) : Block :=
  let s0 := addRoundKey p (roundKey rk 0)
  let s9 := [1, 2, 3, 4, 5, 6, 7, 8, 9].foldl (fun s r => cipherRound s (roundKey rk r)) s0
  addRoundKey (shiftRows (subBytes s9)) (roundKey rk 10)

/-- One of the rounds 9 down to 1 of decryption with its round key (43_block_cipher.md R481). -/
def invCipherRound (s k : Block) : Block := invSubBytes (invShiftRows (invMixColumns (addRoundKey s k)))

/-- InvCipher(c, rk): the exact reverse of Cipher; it starts with AddRoundKey(rk[10]) (43_block_cipher.md R481;
90_conflicts.md C3). -/
def invCipher (c : Block) (rk : Vector Block 11) : Block :=
  let s10 := invSubBytes (invShiftRows (addRoundKey c (roundKey rk 10)))
  let s1 := [9, 8, 7, 6, 5, 4, 3, 2, 1].foldl (fun s r => invCipherRound s (roundKey rk r)) s10
  addRoundKey s1 (roundKey rk 0)

end Sys2Proof.Machine
end

