-- ==== Sys2Proof/Machine/Modes.lean ====
section
/-! DEFINITION. The CTR counter and the mode commands ECB_ENC, ECB_DEC, CBC_ENC, CBC_DEC and CTR_XCRYPT (44_modes.md R504,
R510 to R515). -/

namespace Sys2Proof.Machine

/-- Byte `k` (0..7) of `CtrBytes(n, le)`: byte 0 least significant if `le`, else byte 7 (44_modes.md R504). -/
def ctrByte (n : BitVec 64) (le : Bool) (k : Nat) : Byte :=
  if le then n.extractLsb' (8 * k) 8 else n.extractLsb' (8 * (7 - k)) 8

/-- `CtrBytes(n, le)`, the 8 counter bytes as the two columns they fill in the input block (44_modes.md R504). -/
def ctrBytes (n : BitVec 64) (le : Bool) : Column × Column :=
  (⟨ctrByte n le 0, ctrByte n le 1, ctrByte n le 2, ctrByte n le 3⟩,
   ⟨ctrByte n le 4, ctrByte n le 5, ctrByte n le 6, ctrByte n le 7⟩)

/-- `CtrValue(b, le)`, the 64-bit number that 8 counter bytes stand for (44_modes.md R504). -/
def ctrValue (b : Column × Column) (le : Bool) : BitVec 64 :=
  if le then b.2.b3 ++ b.2.b2 ++ b.2.b1 ++ b.2.b0 ++ b.1.b3 ++ b.1.b2 ++ b.1.b1 ++ b.1.b0
  else b.1.b0 ++ b.1.b1 ++ b.1.b2 ++ b.1.b3 ++ b.2.b0 ++ b.2.b1 ++ b.2.b2 ++ b.2.b3

/-- `CtrBlock(nonce, n, le)`: the 8-byte nonce, then the counter bytes (44_modes.md R504). -/
def ctrBlock (nonce : Column × Column) (n : BitVec 64) (le : Bool) : Block :=
  ⟨nonce.1, nonce.2, (ctrBytes n le).1, (ctrBytes n le).2⟩

/-- `CtrIncrement(b, le)`, plus 1 modulo 2^64 (44_modes.md R515). -/
def ctrIncrement (b : Column × Column) (le : Bool) : Column × Column := ctrBytes (ctrValue b le + 1) le

/-- The counter half `IV[8..15]` incremented, the nonce `IV[0..7]` as it was (44_modes.md R514, R515). -/
def advanceCounter (iv : Block) (le : Bool) : Block :=
  ⟨iv.c0, iv.c1, (ctrIncrement (iv.c2, iv.c3) le).1, (ctrIncrement (iv.c2, iv.c3) le).2⟩

/-- The first `len` bytes of `d` XOR `ks`, then 0x00 (44_modes.md R514). -/
def xorFirst (len : Nat) (d ks : Block) : Block :=
  Block.ofBytes fun i => if i.val < len then d.byte i ^^^ ks.byte i else 0x00

/-- ECB_ENC: `DOUT <- Cipher(DIN, RK)` (44_modes.md R510). -/
def execEcbEnc (len : Nat) (s : State) : Result :=
  .next (withWholeBlock len (fun u => u.setDout (cipher u.din u.rk)) s)

/-- ECB_DEC: `DOUT <- InvCipher(DIN, RK)` (44_modes.md R511). -/
def execEcbDec (len : Nat) (s : State) : Result :=
  .next (withWholeBlock len (fun u => u.setDout (invCipher u.din u.rk)) s)

/-- The effect of CBC_ENC: DOUT and IV take the new ciphertext block (44_modes.md R512). -/
def cbcEncEffect (s : State) : State :=
  let c := cipher (s.din.xor s.iv) s.rk
  (s.setDout c).setIv c

/-- CBC_ENC (44_modes.md R512). -/
def execCbcEnc (len : Nat) (s : State) : Result := .next (withWholeBlock len cbcEncEffect s)

/-- The effect of CBC_DEC: DOUT takes the plaintext block, IV the ciphertext block that was in DIN (44_modes.md R513). -/
def cbcDecEffect (s : State) : State := (s.setDout ((invCipher s.din s.rk).xor s.iv)).setIv s.din

/-- CBC_DEC (44_modes.md R513). -/
def execCbcDec (len : Nat) (s : State) : Result := .next (withWholeBlock len cbcDecEffect s)

/-- The effect of CTR_XCRYPT on `len` bytes: DOUT takes the bytes, and the counter half of IV is incremented in the byte
order of CTRL.CTR_LE (44_modes.md R514). -/
def ctrEffect (len : Nat) (s : State) : State :=
  (s.setDout (xorFirst len s.din (cipher s.iv s.rk))).setIv (advanceCounter s.iv s.ctrLe)

/-- CTR_XCRYPT (44_modes.md R514). -/
def execCtrXcrypt (len : Nat) (s : State) : Result := .next (withPartialBlock len (ctrEffect len) s)

end Sys2Proof.Machine
end

