-- ==== Sys2Proof/Machine/System.lean ====
section
/-! DEFINITION. The one system command, NOP (45_system.md R561, R564). -/

namespace Sys2Proof.Machine

/-- NOP: `STATUS.ERR <- 0x00` and nothing else (45_system.md R561). -/
def execNop (s : State) : Result := .next (always (fun u => u) s)

end Sys2Proof.Machine
end

