-- ==== Sys2Proof/Machine/Dispatch.lean ====
section
/-! DEFINITION. One arm per command: each calls the command's own meaning. -/

namespace Sys2Proof.Machine

/-- What a decoded command does: "perform d's pseudocode" with its checks (45_system.md R560). -/
def exec (i : Instr) (s : State) : Host.Outcome State Fault Refusal :=
  match i with
  | .nop => Sys2Proof.Machine.execNop s
  | .keyexp => Sys2Proof.Machine.execKeyexp s
  | .rkread ridx => Sys2Proof.Machine.execRkread ridx s
  | .ecbEnc len => Sys2Proof.Machine.execEcbEnc len s
  | .ecbDec len => Sys2Proof.Machine.execEcbDec len s
  | .cbcEnc len => Sys2Proof.Machine.execCbcEnc len s
  | .cbcDec len => Sys2Proof.Machine.execCbcDec len s
  | .ctrXcrypt len => Sys2Proof.Machine.execCtrXcrypt len s
  | .subbytes => Sys2Proof.Machine.execSubbytes s
  | .invSubbytes => Sys2Proof.Machine.execInvSubbytes s
  | .shiftrows => Sys2Proof.Machine.execShiftrows s
  | .invShiftrows => Sys2Proof.Machine.execInvShiftrows s
  | .mixcolumns => Sys2Proof.Machine.execMixcolumns s
  | .invMixcolumns => Sys2Proof.Machine.execInvMixcolumns s
  | .addroundkey ridx => Sys2Proof.Machine.execAddroundkey ridx s
  | .gfmul => Sys2Proof.Machine.execGfmul s

end Sys2Proof.Machine
end

