-- ==== Sys2Proof/Machine/Bus.lean ====
section
/-! DEFINITION. The bus: the register map, reads and writes of the window, running a command, and what one event of the
outside world does (20_memory.md R200 to R210; 45_system.md R560, R562). -/

namespace Sys2Proof.Machine

/-- What stands at one byte of the window (20_memory.md R201). -/
inductive WindowByte where
  /-- CTRL bits 7:0, of which bit 0 is CTR_LE -/
  | ctrl
  /-- STATUS bits 7:0, ERR -/
  | statusErr
  /-- STATUS bits 15:8, of which bit 8 is RK_VALID -/
  | statusRkValid
  /-- a byte of CMD -/
  | command
  | gfA
  | gfB
  | gfP
  | key (i : Fin 16)
  | iv (i : Fin 16)
  | din (i : Fin 16)
  | dout (i : Fin 16)
  | st (i : Fin 16)
  /-- a byte of reserved bits or a reserved offset: reads 0, writes ignored -/
  | reserved
  deriving DecidableEq, Repr

/-- The first 16 bytes of the register map, by their offset: CTRL, STATUS, CMD, GF (20_memory.md R201, R207). -/
def controlByte (x : Nat) : WindowByte :=
  match x with
  | 0x00 => .ctrl
  | 0x04 => .statusErr
  | 0x05 => .statusRkValid
  | 0x08 => .command
  | 0x09 => .command
  | 0x0A => .command
  | 0x0B => .command
  | 0x0C => .gfA
  | 0x0D => .gfB
  | 0x0E => .gfP
  | _ => .reserved

/-- The register map: the byte `i` of a 16-byte register is at `base + i`, with base 0x10, 0x20, 0x30, 0x40 or 0x50
(20_memory.md R201, R204). -/
def windowByte (x : BitVec 8) : WindowByte :=
  let i : Fin 16 := Fin.ofNat 16 x.toNat
  match x.toNat / 16 with
  | 0 => controlByte x.toNat
  | 1 => .key i
  | 2 => .iv i
  | 3 => .din i
  | 4 => .dout i
  | 5 => .st i
  | _ => .reserved

/-- `byte(x)`, the read value of a byte of the window (20_memory.md R207). -/
def readByte (s : State) (x : BitVec 8) : Byte :=
  match windowByte x with
  | .ctrl => flagByte s.ctrLe
  | .statusErr => s.err
  | .statusRkValid => flagByte s.rkValid
  | .command => 0x00
  | .gfA => s.gfA
  | .gfB => s.gfB
  | .gfP => s.gfP
  | .key i => s.key.byte i
  | .iv i => s.iv.byte i
  | .din i => s.din.byte i
  | .dout i => s.dout.byte i
  | .st i => s.st.byte i
  | .reserved => 0x00

/-- `WriteByte(x, d)` (20_memory.md R208). A write to CMD does not come here (R206); it stores nothing (10_state.md R107). -/
def writeByte (x : BitVec 8) (d : Byte) (s : State) : State :=
  match windowByte x with
  | .ctrl => s.setCtrLe (ctrLeOf d)
  | .statusErr => s
  | .statusRkValid => s
  | .command => s
  | .gfA => s.setGfA d
  | .gfB => s.setGfB d
  | .gfP => s
  | .key i => writeKeyByte i d s
  | .iv i => s.setIv (s.iv.setByte i d)
  | .din i => s.setDin (s.din.setByte i d)
  | .dout _ => s
  | .st i => s.setSt (s.st.setByte i d)
  | .reserved => s

/-- The widths and alignments the block admits: 1 byte anywhere, 4 bytes at a multiple of 4 (20_memory.md R202, R203). -/
def widthAdmitted (n : Nat) (o : BitVec 8) : Bool := n == 1 || (n == 4 && o.toNat % 4 == 0)

/-- `Admitted(o, n, kind)` (20_memory.md R209). -/
def admitted : Access → Bool
  | .read n o => widthAdmitted n o
  | .write n o _ => widthAdmitted n o && !(n == 1 && windowByte o == .command)

/-- The value an admitted read returns, in the bus's little-endian lanes (20_memory.md R205). -/
def busRead (s : State) (n : Nat) (o : BitVec 8) : BusValue :=
  if n = 4 then
    .word (joinLanes (readByte s o) (readByte s (o + 1)) (readByte s (o + 2)) (readByte s (o + 3)))
  else .byte (readByte s o)

/-- The byte writes of a host write of `n` bytes, lane `k` to offset `o + k` (20_memory.md R206). -/
def storeLanes (n : Nat) (o : BitVec 8) (v : Word32) (s : State) : State :=
  (List.range n).foldl (fun u k => writeByte (o + BitVec.ofNat 8 k) (lane v k) u) s

/-- RunCommand(w): an illegal word fails with ERR_ILLEGAL, a command is performed (45_system.md R560; 30_encoding.md R307). -/
def runCommand (w : Word32) (s : State) : Result :=
  match decodeWord w with
  | .command i => exec i s
  | .illegal _ => .next (raiseCmdError .illegal s)

/-- An admitted host write: a write to CMD runs the command, any other stores its bytes (20_memory.md R206). -/
def busWrite (n : Nat) (o : BitVec 8) (v : Word32) (s : State) : Result :=
  if windowByte o = .command then runCommand v s else .next (storeLanes n o v s)

/-- One host access: refused with a bus error, or performed completely (20_memory.md R209, R213). A read only records its
value; it has no side effect on the block (R207). -/
def hostAccess (a : Access) (s : State) : Result :=
  if admitted a then
    match a with
    | .read n o => .next (s.recordRead (busRead s n o))
    | .write n o v => busWrite n o v s
  else .fault .busError

/-- One event of the outside world (20_memory.md R213; 70_reset_and_hazards.md R700). -/
def hostEvent (e : HostEvent) (s : State) : Result :=
  match e with
  | .access a => hostAccess a s
  | .reset => .next (takeReset s)

/-- One step of the machine: the next event, taken off the list and performed; with none left the run has ended
(45_system.md R562; 70_reset_and_hazards.md R710). -/
def hostStep (s : State) : Result :=
  match s.pending with
  | [] => .fault .endOfRun
  | e :: rest => hostEvent e (s.setPending rest)

/-- The window offset of a bus address, for the platform's choice of AES_BASE; none for an address outside the window, which
is no access to the block (20_memory.md R200: `AES_BASE + offset`; 93_implementation_defined.md I18: a parameter). -/
def windowOffset (aesBase addr : Nat) : Option (BitVec 8) :=
  if aesBase ≤ addr ∧ addr < aesBase + 256 then some (BitVec.ofNat 8 (addr - aesBase)) else none

/-- The host's access to a bus address (20_memory.md R200): the access at its window offset. -/
def readAt (aesBase : Nat) (width addr : Nat) : Option Access :=
  (windowOffset aesBase addr).map fun o => .read width o

/-- The host's write to a bus address (20_memory.md R200). -/
def writeAt (aesBase : Nat) (width addr : Nat) (value : Word32) : Option Access :=
  (windowOffset aesBase addr).map fun o => .write width o value

end Sys2Proof.Machine
end

