-- ==== Sys2Proof/Machine/Step.lean ====
section
/-! DEFINITION. The step of the machine: one event of the outside world, a whole command inside it
(45_system.md R562). -/

namespace Sys2Proof.Machine

/-- One step (45_system.md R562: one step per host access). -/
def step (s : State) : Host.Outcome State Fault Refusal := hostStep s

/-- `s` with a 4-byte write of the command word `w` to CMD (offset 0x08) as the host's next access, so that the next step
runs it; the bits of the word above `nbits` are 0 (20_memory.md R206; log entry 3). -/
def State.withFetchWord (s : State) (nbits w : Nat) : State :=
  s.setPending (.access (.write 4 0x08 (BitVec.ofNat 32 (w % 2 ^ nbits))) :: s.pending)

end Sys2Proof.Machine
end

