-- ==== Sys2Proof/Machine/Assembler.lean ====
section
/-! DEFINITION. The host's program notation as abstract lines, and the bus accesses each line stands for
(30_encoding.md R309 to R312). `HostText` reads these lines from the text of a program. -/

namespace Sys2Proof.Machine

/-- The register names a line may use (30_encoding.md R309; 20_memory.md R201). -/
inductive RegName where
  | ctrl | status | cmd | gf | key | iv | din | dout | st
  deriving DecidableEq, Repr

/-- The offset of a register (20_memory.md R201). -/
def regOffset : RegName → Nat
  | .ctrl => 0x00
  | .status => 0x04
  | .cmd => 0x08
  | .gf => 0x0C
  | .key => 0x10
  | .iv => 0x20
  | .din => 0x30
  | .dout => 0x40
  | .st => 0x50

/-- The 16-byte registers, which wr128 and rd128 take (30_encoding.md R311). -/
def isBlockReg : RegName → Bool
  | .ctrl => false
  | .status => false
  | .cmd => false
  | .gf => false
  | .key => true
  | .iv => true
  | .din => true
  | .dout => true
  | .st => true

/-- An offset: a number, or a register name plus a number (30_encoding.md R309). -/
inductive HostOffset where
  | number (n : Nat)
  | register (r : RegName) (plus : Nat)
  deriving DecidableEq, Repr

/-- One line of a host program (30_encoding.md R309 to R312). -/
inductive HostLine where
  | rd8 (off : HostOffset)
  | rd32 (off : HostOffset)
  | wr8 (off : HostOffset) (value : Byte)
  | wr32 (off : HostOffset) (value : Word32)
  | cmd (m : Mnemonic) (ridx len : Option Nat)
  | wr128 (r : RegName) (value : Block)
  | rd128 (r : RegName)
  | setkey (key : Block)
  deriving DecidableEq, Repr

/-- The number an offset stands for. -/
def offsetNumber : HostOffset → Nat
  | .number n => n
  | .register r plus => regOffset r + plus

/-- The offset of a bus transaction is 0x00..0xFF (30_encoding.md R309). -/
def offsetOf (o : HostOffset) : Option (BitVec 8) :=
  if offsetNumber o ≤ 0xFF then some (BitVec.ofNat 8 (offsetNumber o)) else none

/-- The command uses RIDX: the opcode map leaves the field's bits free (30_encoding.md R305). -/
def usesRidx (m : Mnemonic) : Bool := m.mask.extractLsb' 8 4 == 0

/-- The command uses LEN (30_encoding.md R305). -/
def usesLen (m : Mnemonic) : Bool := m.mask.extractLsb' 16 5 == 0

/-- The word of a `cmd` line; the assembler refuses an operand the command does not use and one that does not fit its field
(30_encoding.md R310). -/
def commandWord (m : Mnemonic) (ridx len : Option Nat) : Option Word32 :=
  let i := m.command (ridx.getD 0) (len.getD 0)
  if (ridx.isNone || usesRidx m) && (len.isNone || usesLen m) && i.wf then some (encode i) else none

/-- Word `k` of a 16-byte value in the bus's lanes (30_encoding.md R311). -/
def blockWord (b : Block) (k : Fin 4) : Word32 := joinLanes (b.cell 0 k) (b.cell 1 k) (b.cell 2 k) (b.cell 3 k)

/-- The four 4-byte writes of `wr128` (30_encoding.md R311). -/
def blockWrites (r : RegName) (b : Block) : List Access :=
  [0, 1, 2, 3].map fun k : Fin 4 => .write 4 (BitVec.ofNat 8 (regOffset r + 4 * k.val)) (blockWord b k)

/-- The four 4-byte reads of `rd128` (30_encoding.md R311). -/
def blockReads (r : RegName) : List Access :=
  [0, 1, 2, 3].map fun k : Fin 4 => .read 4 (BitVec.ofNat 8 (regOffset r + 4 * k.val))

/-- The bus accesses a line stands for; none if the assembler refuses it (30_encoding.md R309 to R312). -/
def assembleLine : HostLine → Option (List Access)
  | .rd8 off => (offsetOf off).map fun o => [.read 1 o]
  | .rd32 off => (offsetOf off).map fun o => [.read 4 o]
  | .wr8 off value => (offsetOf off).map fun o => [.write 1 o (value.setWidth 32)]
  | .wr32 off value => (offsetOf off).map fun o => [.write 4 o value]
  | .cmd m ridx len => (commandWord m ridx len).map fun w => [.write 4 0x08 w]
  | .wr128 r value => if isBlockReg r then some (blockWrites r value) else none
  | .rd128 r => if isBlockReg r then some (blockReads r) else none
  | .setkey key => some (blockWrites .key key ++ [.write 4 0x08 (encode .keyexp)])

/-- The accesses of a program, line after line (30_encoding.md R309). -/
def assemble : List HostLine → Option (List Access)
  | [] => some []
  | line :: lines => do
    let now ← assembleLine line
    let later ← assemble lines
    pure (now ++ later)

/-- The machine with a host program's accesses still to come, after those it already has (log entry 3). -/
def loadAccesses (accesses : List Access) (s : State) : State := s.setPending (s.pending ++ accesses.map .access)

end Sys2Proof.Machine
end

