-- ==== Sys2Proof/Machine/Messages.lean ====
section
/-! DEFINITION. The modes as functions of whole messages (44_modes.md R500 to R505), and a host's streaming of a message
through the commands, block 0 first (R516, R517). -/

namespace Sys2Proof.Machine

/-- What a message function answers: bytes, or the error "malformed input" (44_modes.md R500). -/
inductive MessageResult where
  | bytes (b : List Byte)
  | malformedInput
  deriving DecidableEq, Repr

/-- The blocks of a message; none when its length is not a multiple of 16 (44_modes.md R500, R517). -/
def blocksOf : List Byte → Option (List Block)
  | [] => some []
  | a0 :: a1 :: a2 :: a3 :: a4 :: a5 :: a6 :: a7 :: a8 :: a9 :: a10 :: a11 :: a12 :: a13 :: a14 :: a15 :: rest =>
    (blocksOf rest).map fun bs => ⟨⟨a0, a1, a2, a3⟩, ⟨a4, a5, a6, a7⟩, ⟨a8, a9, a10, a11⟩, ⟨a12, a13, a14, a15⟩⟩ :: bs
  | _ => none

/-- The bytes of a list of blocks, block 0 first. -/
def bytesOf (bs : List Block) : List Byte := bs.flatMap Block.toBytes

/-- A message function that works on whole blocks: MalformedInput when the length is not a multiple of 16
(44_modes.md R500 to R503). -/
def onBlocks (f : List Block → List Block) (m : List Byte) : MessageResult :=
  match blocksOf m with
  | some bs => .bytes (bytesOf (f bs))
  | none => .malformedInput

/-- ECB_Encrypt(key, P) (44_modes.md R500). -/
def ecbEncrypt (key : Block) (p : List Byte) : MessageResult :=
  onBlocks (fun bs => bs.map fun b => cipher b (keyExpansion key)) p

/-- ECB_Decrypt(key, C) (44_modes.md R501). -/
def ecbDecrypt (key : Block) (c : List Byte) : MessageResult :=
  onBlocks (fun bs => bs.map fun b => invCipher b (keyExpansion key)) c

/-- The loop of CBC_Encrypt: `prev` is `ciphertext[i-1]` (44_modes.md R502). -/
def cbcEncryptBlocks (rk : Vector Block 11) (prev : Block) : List Block → List Block
  | [] => []
  | p :: ps =>
    let c := cipher (p.xor prev) rk
    c :: cbcEncryptBlocks rk c ps

/-- The loop of CBC_Decrypt (44_modes.md R503). -/
def cbcDecryptBlocks (rk : Vector Block 11) (prev : Block) : List Block → List Block
  | [] => []
  | c :: cs => (invCipher c rk).xor prev :: cbcDecryptBlocks rk c cs

/-- CBC_Encrypt(key, iv, P); an omitted IV is 16 zero bytes (44_modes.md R502). -/
def cbcEncrypt (key : Block) (iv : Option Block) (p : List Byte) : MessageResult :=
  onBlocks (cbcEncryptBlocks (keyExpansion key) (iv.getD Block.zero)) p

/-- CBC_Decrypt(key, iv, C) (44_modes.md R503). -/
def cbcDecrypt (key : Block) (iv : Option Block) (c : List Byte) : MessageResult :=
  onBlocks (cbcDecryptBlocks (keyExpansion key) (iv.getD Block.zero)) c

/-- The number of keystream blocks of a message, `ceil(len/16)` (44_modes.md R505). -/
def ctrBlockCount (m : List Byte) : Nat := (m.length + 15) / 16

/-- The loop of CTR over `n` keystream blocks from counter value `c`; the last keystream block is cut to the bytes needed
(44_modes.md R505). -/
def ctrLoop (rk : Vector Block 11) (nonce : Column × Column) (le : Bool) : Nat → BitVec 64 → List Byte → List Byte
  | 0, _, _ => []
  | n + 1, c, p =>
    List.zipWith (fun d k => d ^^^ k) (p.take 16) (cipher (ctrBlock nonce c le) rk).toBytes
      ++ ctrLoop rk nonce le n (c + 1) (p.drop 16)

/-- CTR(key, nonce, P, le, c0); an omitted nonce is 8 zero bytes (44_modes.md R505). -/
def ctrCrypt (key : Block) (nonce : Option (Column × Column)) (p : List Byte) (le : Bool) (c0 : BitVec 64) : List Byte :=
  ctrLoop (keyExpansion key) (nonce.getD (⟨0, 0, 0, 0⟩, ⟨0, 0, 0, 0⟩)) le (ctrBlockCount p) c0 p

/-- A host streaming whole blocks through an ECB or CBC command: per block, write DIN, run the command, read DOUT; none if a
command does not succeed (44_modes.md R516). -/
def streamBlocks (i : Instr) : List Block → State → Option (List Block × State)
  | [], s => some ([], s)
  | b :: bs, s =>
    match exec i (s.setDin b) with
    | .next t => if t.err = 0x00 then (streamBlocks i bs t).map fun r => (t.dout :: r.1, r.2) else none
    | .fault _ => none
    | .refused _ => none

/-- DIN after the host has written the bytes of a partial block: the rest keeps what it held (44_modes.md R516: "the rest any
value"). -/
def loadPartial (m : List Byte) (old : Block) : Block := Block.ofBytes fun i => (m[i.val]?).getD (old.byte i)

/-- A message cut into `n` pieces of at most 16 bytes. -/
def pieces : Nat → List Byte → List (List Byte)
  | 0, _ => []
  | n + 1, p => p.take 16 :: pieces n (p.drop 16)

/-- A host streaming the pieces of a message through CTR_XCRYPT: per piece of `m` bytes, write them to DIN, run the command
with LEN = m, read the first `m` bytes of DOUT (44_modes.md R516). -/
def streamCtr : List (List Byte) → State → Option (List Byte × State)
  | [], s => some ([], s)
  | m :: ms, s =>
    match exec (.ctrXcrypt m.length) (s.setDin (loadPartial m s.din)) with
    | .next t => if t.err = 0x00 then (streamCtr ms t).map fun r => (t.dout.toBytes.take m.length ++ r.1, r.2) else none
    | .fault _ => none
    | .refused _ => none

/-- The commands of one encryption by single transforms on ST, in the order of 43_block_cipher.md R483. -/
def cipherCommands : List Instr :=
  [.addroundkey 0]
    ++ ([1, 2, 3, 4, 5, 6, 7, 8, 9].flatMap fun r => [.subbytes, .shiftrows, .mixcolumns, .addroundkey r])
    ++ [.subbytes, .shiftrows, .addroundkey 10]

/-- The mirrored commands of one decryption by single transforms on ST (43_block_cipher.md R481, R483). -/
def invCipherCommands : List Instr :=
  [.addroundkey 10, .invShiftrows, .invSubbytes]
    ++ ([9, 8, 7, 6, 5, 4, 3, 2, 1].flatMap fun r => [.addroundkey r, .invMixcolumns, .invShiftrows, .invSubbytes])
    ++ [.addroundkey 0]

/-- Commands one after the other, as long as each answers a next state (45_system.md R562). -/
def execAll : List Instr → State → Result
  | [], s => .next s
  | i :: is, s =>
    match exec i s with
    | .next t => execAll is t
    | .fault r => .fault r
    | .refused r => .refused r

end Sys2Proof.Machine
end

