-- ==== Sys2Proof/Safety.lean ====
section
/-! DEFINITION. What the statements are said in: the invariant of the block, what a safe run is, and which states no host can
tell apart. -/

namespace Sys2Proof.Machine

/-- The invariant of the block: whenever RK_VALID is 1, RK is the schedule of the current KEY (10_state.md R110;
42_key_schedule.md R467), and STATUS.ERR is one of the codes 0x00 to 0x04 (60_exceptions.md R600). -/
abbrev State.Inv (s : State) : Prop :=
  (s.rkValid = true → s.rk = keyExpansion s.key) ∧ s.err.toNat ≤ 4

/-- Every access the host still has to make is one the block admits (20_memory.md R209). -/
abbrev State.pendingAdmitted (s : State) : Prop :=
  ∀ a : Access, HostEvent.access a ∈ s.pending → admitted a = true

/-- The run of the first `k` events, up to its first fault (70_reset_and_hazards.md R710). -/
def runEvents (k : Nat) (s : State) : Result := Host.Core.run Sys2Proof.core k s

/-- The run of all pending events, up to its end or its first fault (70_reset_and_hazards.md R710). -/
def runPending (s : State) : Result := runEvents s.pending.length s

/-- Two states that differ at most in RK, and in RK only while RK_VALID is 0, when no command reads it
(10_state.md R109, R110, R115). -/
abbrev State.sameView (s t : State) : Prop :=
  t = { s with rk := t.rk } ∧ (s.rkValid = true → s.rk = t.rk)

/-- Two outcomes that no host can tell apart. -/
def sameOutcome (a b : Result) : Prop :=
  match a, b with
  | .next s, .next t => s.sameView t
  | .fault r, .fault q => r = q
  | .refused r, .refused q => r = q
  | _, _ => False

/-- `x` is an offset of register `r` (20_memory.md R201). -/
def offsetIn (r : RegName) (x : BitVec 8) : Prop :=
  regOffset r ≤ x.toNat ∧ x.toNat < regOffset r + (if isBlockReg r then 16 else 4)

/-- The operand check a command fails, by the legal sets of 30_encoding.md R302 and R303 (60_exceptions.md R600, R602). -/
def fieldError : Instr → Option CmdStatus
  | .rkread ridx => if 10 < ridx then some .ridx else none
  | .addroundkey ridx => if 10 < ridx then some .ridx else none
  | .ecbEnc len => if len = 16 then none else some .length
  | .ecbDec len => if len = 16 then none else some .length
  | .cbcEnc len => if len = 16 then none else some .length
  | .cbcDec len => if len = 16 then none else some .length
  | .ctrXcrypt len => if len = 0 ∨ 16 < len then some .length else none
  | .nop => none
  | .keyexp => none
  | .subbytes => none
  | .invSubbytes => none
  | .shiftrows => none
  | .invShiftrows => none
  | .mixcolumns => none
  | .invMixcolumns => none
  | .gfmul => none

/-- The commands that read RK (10_state.md R110; 60_exceptions.md R600). -/
def needsKeys : Instr → Bool
  | .rkread _ => true
  | .addroundkey _ => true
  | .ecbEnc _ => true
  | .ecbDec _ => true
  | .cbcEnc _ => true
  | .cbcDec _ => true
  | .ctrXcrypt _ => true
  | .nop => false
  | .keyexp => false
  | .subbytes => false
  | .invSubbytes => false
  | .shiftrows => false
  | .invShiftrows => false
  | .mixcolumns => false
  | .invMixcolumns => false
  | .gfmul => false

/-- The encoding clause of a command without fields: its one word decodes to it, and a word with its OP and a 1 in bits 31:8
fails with ERR_ILLEGAL and no other effect (30_encoding.md R304, R305). -/
def noFieldEncoding (i : Instr) (op : Byte) : Prop :=
  decodeWord (op.setWidth 32) = .command i ∧
  ∀ (w : Word32) (s : State), w.extractLsb' 0 8 = op → w.extractLsb' 8 24 ≠ 0 → runCommand w s = .next { s with err := 0x01 }

/-- The encoding clause of a command with RIDX: the words `OP | ridx << 8`, and ERR_ILLEGAL for a 1 in bits 31:12
(30_encoding.md R304, R305). -/
def ridxEncoding (command : Nat → Instr) (op : Byte) : Prop :=
  (∀ ridx : Nat, ridx < 16 → decodeWord (op.setWidth 32 ||| (BitVec.ofNat 32 ridx <<< 8)) = .command (command ridx)) ∧
  ∀ (w : Word32) (s : State), w.extractLsb' 0 8 = op → w.extractLsb' 12 20 ≠ 0 → runCommand w s = .next { s with err := 0x01 }

/-- The encoding clause of a command with LEN: the words `OP | len << 16`, and ERR_ILLEGAL for a 1 in bits 31:21 or 15:8
(30_encoding.md R304, R305). -/
def lenEncoding (command : Nat → Instr) (op : Byte) : Prop :=
  (∀ len : Nat, len < 32 → decodeWord (op.setWidth 32 ||| (BitVec.ofNat 32 len <<< 16)) = .command (command len)) ∧
  ∀ (w : Word32) (s : State), w.extractLsb' 0 8 = op → (w.extractLsb' 21 11 ≠ 0 ∨ w.extractLsb' 8 8 ≠ 0) →
    runCommand w s = .next { s with err := 0x01 }

/-- Accesses one after the other, as long as each answers a next state (20_memory.md R213). -/
def accessAll : List Access → State → Result
  | [], s => .next s
  | a :: as, s =>
    match hostAccess a s with
    | .next t => accessAll as t
    | .fault r => .fault r
    | .refused r => .refused r

/-- Word `j` (0..43) of the key schedule: column `j mod 4` of round key `j / 4` (42_key_schedule.md R464). -/
def scheduleWord (key : Block) (j : Nat) : Column := (roundKey (keyExpansion key) (j / 4)).column (Fin.ofNat 4 j)

/-- The 8 bytes of a counter half in order. -/
def counterBytes (b : Column × Column) : List Byte :=
  [b.1.b0, b.1.b1, b.1.b2, b.1.b3, b.2.b0, b.2.b1, b.2.b2, b.2.b3]

/-- Increment of a counter, least significant byte first, by a rippling carry; the carry out of the last byte is discarded
(44_modes.md R515). -/
def rippleIncrement : List Byte → List Byte
  | [] => []
  | b :: bs => if b = 0xFF then 0x00 :: rippleIncrement bs else (b + 1) :: bs

/-- The access is a read. -/
def isReadEvent : HostEvent → Bool
  | .access (.read _ _) => true
  | .access (.write _ _ _) => false
  | .reset => false

end Sys2Proof.Machine
end

