-- ==== Sys2Proof/Certificates/Slice0/Obligations.lean ====
section
/-! DEFINITION. The statements about the model, from the numbered rules of spec/. A next state is written as the state
before with the fields that change, so each equation says the whole frame as well. -/

open Sys2Proof Sys2Proof.Machine

/-! ## The command word -/

/-- Words written out from the encodings of 30_encoding.md R305 and the examples of R310 decode to their commands, one for
each family (95_test_vectors.md V7.1). -/
def Obligations.SampleWordsDecode : Prop :=
  decodeWord 0x00000000 = .command .nop ∧
  decodeWord 0x00000001 = .command .keyexp ∧
  decodeWord 0x00000F02 = .command (.rkread 15) ∧
  decodeWord 0x00000A26 = .command (.addroundkey 10) ∧
  decodeWord 0x00100010 = .command (.ecbEnc 16) ∧
  decodeWord 0x000F0013 = .command (.cbcDec 15) ∧
  decodeWord 0x00040014 = .command (.ctrXcrypt 4) ∧
  decodeWord 0x00000025 = .command .invMixcolumns ∧
  decodeWord 0x00000030 = .command .gfmul ∧
  decodeWord 0x80000000 = .illegal .reservedBit ∧
  decodeWord 0x000000FF = .illegal .reservedOpcode

/-- Every well-formed command is what its word decodes to (30_encoding.md R301 to R306). -/
def Obligations.DecodeOfEncode : Prop :=
  ∀ i : Instr, i.wf = true → decodeWord (encode i) = .command i

/-- A word that decodes to a command is that command's one word, and the operands fit their fields
(30_encoding.md R301 to R306). -/
def Obligations.EncodeOfDecode : Prop :=
  ∀ (w : Word32) (i : Instr), decodeWord w = .command i → i.wf = true ∧ encode i = w

/-- 30_encoding.md R305 and R306, with the table's match and mask columns written out: a word decodes to the row it matches,
to ILLEGAL if it matches none, and no word matches two rows. -/
def Obligations.DecodeFollowsOpcodeMap : Prop :=
  ∀ w : Word32,
    let r := (w.extractLsb' 8 4).toNat
    let n := (w.extractLsb' 16 5).toNat
    let rows : List (Word32 × Word32 × Instr) :=
      [(0x00000000, 0xFFFFFFFF, .nop), (0x00000001, 0xFFFFFFFF, .keyexp), (0x00000002, 0xFFFFF0FF, .rkread r),
       (0x00000010, 0xFFE0FFFF, .ecbEnc n), (0x00000011, 0xFFE0FFFF, .ecbDec n), (0x00000012, 0xFFE0FFFF, .cbcEnc n),
       (0x00000013, 0xFFE0FFFF, .cbcDec n), (0x00000014, 0xFFE0FFFF, .ctrXcrypt n), (0x00000020, 0xFFFFFFFF, .subbytes),
       (0x00000021, 0xFFFFFFFF, .invSubbytes), (0x00000022, 0xFFFFFFFF, .shiftrows),
       (0x00000023, 0xFFFFFFFF, .invShiftrows), (0x00000024, 0xFFFFFFFF, .mixcolumns),
       (0x00000025, 0xFFFFFFFF, .invMixcolumns), (0x00000026, 0xFFFFF0FF, .addroundkey r), (0x00000030, 0xFFFFFFFF, .gfmul)]
    (∀ row ∈ rows, w &&& row.2.1 = row.1 → decodeWord w = .command row.2.2) ∧
    ((∀ row ∈ rows, w &&& row.2.1 ≠ row.1) → ∃ why, decodeWord w = .illegal why) ∧
    rows.Pairwise (fun a b => ¬ (w &&& a.2.1 = a.1 ∧ w &&& b.2.1 = b.1))

/-- 30_encoding.md R307: a reserved OP, or a 1 in a bit outside the command's fields, fails with ERR_ILLEGAL and changes
nothing else; the only word that decodes to NOP is 0. -/
def Obligations.ReservedWordsFailIllegal : Prop :=
  ∀ (w : Word32) (s : State),
    (let op := (w.extractLsb' 0 8).toNat
     (0x03 ≤ op ∧ op ≤ 0x0F) ∨ (0x15 ≤ op ∧ op ≤ 0x1F) ∨ (0x27 ≤ op ∧ op ≤ 0x2F) ∨ 0x31 ≤ op →
      runCommand w s = .next { s with err := 0x01 }) ∧
    (∀ m : Mnemonic, w.extractLsb' 0 8 = m.op → (w &&& m.mask) >>> 8 ≠ 0 →
      runCommand w s = .next { s with err := 0x01 }) ∧
    (decodeWord w = .command .nop ↔ w = 0)

/-- 30_encoding.md R310: the word of a `cmd` line, the operands the assembler refuses, and the four examples. -/
def Obligations.CommandLineWord : Prop :=
  (∀ (m : Mnemonic) (ridx len : Option Nat),
    (((ridx.isSome = true → m = .rkread ∨ m = .addroundkey) ∧
      (len.isSome = true → m = .ecbEnc ∨ m = .ecbDec ∨ m = .cbcEnc ∨ m = .cbcDec ∨ m = .ctrXcrypt) ∧
      ridx.getD 0 ≤ 15 ∧ len.getD 0 ≤ 31) →
      assembleLine (.cmd m ridx len) =
        some [.write 4 0x08 (m.op.setWidth 32 ||| (BitVec.ofNat 32 (ridx.getD 0) <<< 8)
          ||| (BitVec.ofNat 32 (len.getD 0) <<< 16))]) ∧
    (¬ ((ridx.isSome = true → m = .rkread ∨ m = .addroundkey) ∧
      (len.isSome = true → m = .ecbEnc ∨ m = .ecbDec ∨ m = .cbcEnc ∨ m = .cbcDec ∨ m = .ctrXcrypt) ∧
      ridx.getD 0 ≤ 15 ∧ len.getD 0 ≤ 31) →
      assembleLine (.cmd m ridx len) = none)) ∧
  assembleLine (.cmd .keyexp none none) = some [.write 4 0x08 0x00000001] ∧
  assembleLine (.cmd .addroundkey (some 10) none) = some [.write 4 0x08 0x00000A26] ∧
  assembleLine (.cmd .ecbEnc none (some 16)) = some [.write 4 0x08 0x00100010] ∧
  assembleLine (.cmd .ctrXcrypt none (some 4)) = some [.write 4 0x08 0x00040014]

/-! ## The bus -/

/-- 20_memory.md R207: the read value of every byte of the window; a read changes nothing but the list of values the host
has read. -/
def Obligations.ReadValueOfEachByte : Prop :=
  (∀ (s : State) (x : BitVec 8),
    let n := x.toNat
    readByte s x =
      if n = 0x00 then (if s.ctrLe then 0x01 else 0x00)
      else if n = 0x04 then s.err
      else if n = 0x05 then (if s.rkValid then 0x01 else 0x00)
      else if n = 0x0C then s.gfA
      else if n = 0x0D then s.gfB
      else if n = 0x0E then s.gfP
      else if n < 0x10 then 0x00
      else if n < 0x20 then s.key.byte (Fin.ofNat 16 (n - 0x10))
      else if n < 0x30 then s.iv.byte (Fin.ofNat 16 (n - 0x20))
      else if n < 0x40 then s.din.byte (Fin.ofNat 16 (n - 0x30))
      else if n < 0x50 then s.dout.byte (Fin.ofNat 16 (n - 0x40))
      else if n < 0x60 then s.st.byte (Fin.ofNat 16 (n - 0x50))
      else 0x00) ∧
  (∀ (s t : State) (n : Nat) (o : BitVec 8), hostAccess (.read n o) s = .next t → t = { s with reads := t.reads })

/-- 20_memory.md R208: the effect of a byte write to every byte of the window but CMD's. -/
def Obligations.WriteEffectOfEachByte : Prop :=
  ∀ (s : State) (x : BitVec 8) (d : Byte),
    let n := x.toNat
    (n < 0x08 ∨ 0x0C ≤ n) →
    writeByte x d s =
      if n = 0x00 then { s with ctrLe := d.getLsbD 0 }
      else if n = 0x0C then { s with gfA := d }
      else if n = 0x0D then { s with gfB := d }
      else if n < 0x10 then s
      else if n < 0x20 then { s with key := s.key.setByte (Fin.ofNat 16 (n - 0x10)) d, rkValid := false }
      else if n < 0x30 then { s with iv := s.iv.setByte (Fin.ofNat 16 (n - 0x20)) d }
      else if n < 0x40 then { s with din := s.din.setByte (Fin.ofNat 16 (n - 0x30)) d }
      else if n < 0x50 then s
      else if n < 0x60 then { s with st := s.st.setByte (Fin.ofNat 16 (n - 0x50)) d }
      else s

/-- 20_memory.md R205: the value a 4-byte or a 1-byte read returns, byte `o+k` in bits `[8k+7:8k]`. -/
def Obligations.ReadLanesLittleEndian : Prop :=
  ∀ (s : State) (o : BitVec 8),
    (o.toNat % 4 = 0 →
      hostAccess (.read 4 o) s = .next { s with reads := s.reads ++ [.word
        ((readByte s o).setWidth 32 ||| ((readByte s (o + 1)).setWidth 32 <<< 8)
          ||| ((readByte s (o + 2)).setWidth 32 <<< 16) ||| ((readByte s (o + 3)).setWidth 32 <<< 24))] }) ∧
    hostAccess (.read 1 o) s = .next { s with reads := s.reads ++ [.byte (readByte s o)] }

/-- 20_memory.md R206: a host write byte by byte in the lane mapping; a write to CMD runs the command. -/
def Obligations.WriteLanesLittleEndian : Prop :=
  ∀ (s : State) (n : Nat) (o : BitVec 8) (v : Word32),
    (admitted (.write n o v) = false → hostAccess (.write n o v) s = .fault .busError) ∧
    (admitted (.write n o v) = true →
      (0x08 ≤ o.toNat ∧ o.toNat ≤ 0x0B → n = 4 ∧ o = 0x08 ∧ hostAccess (.write n o v) s = runCommand v s) ∧
      (o.toNat < 0x08 ∨ 0x0B < o.toNat →
        (n = 1 ∧ hostAccess (.write n o v) s = .next (writeByte o (v.extractLsb' 0 8) s)) ∨
        (n = 4 ∧ hostAccess (.write n o v) s =
          .next (writeByte (o + 3) (v.extractLsb' 24 8) (writeByte (o + 2) (v.extractLsb' 16 8)
            (writeByte (o + 1) (v.extractLsb' 8 8) (writeByte o (v.extractLsb' 0 8) s)))))))

/-- 20_memory.md R209: exactly which accesses are refused with a bus error; every other access is performed. -/
def Obligations.AccessRefusedExactly : Prop :=
  ∀ (s : State) (n : Nat) (o : BitVec 8) (v : Word32),
    (hostAccess (.read n o) s = .fault .busError ↔ (n ≠ 1 ∧ n ≠ 4) ∨ (n = 4 ∧ o.toNat % 4 ≠ 0)) ∧
    (hostAccess (.write n o v) s = .fault .busError ↔
      (n ≠ 1 ∧ n ≠ 4) ∨ (n = 4 ∧ o.toNat % 4 ≠ 0) ∨ (n = 1 ∧ 0x08 ≤ o.toNat ∧ o.toNat ≤ 0x0B)) ∧
    (∀ a : Access, hostAccess a s ≠ .fault .busError → ∃ t, hostAccess a s = .next t)

/-- 20_memory.md R210: 1-byte and 4-byte accesses see one byte array; at CMD only the 4-byte write is admitted. -/
def Obligations.MixedWidthsSeeOneArray : Prop :=
  ∀ (s : State) (o : BitVec 8) (v : Word32), o.toNat % 4 = 0 →
    (∃ w : Word32, busRead s 4 o = .word w ∧
      ∀ k : Fin 4, busRead s 1 (o + BitVec.ofNat 8 k.val) = .byte (w.extractLsb' (8 * k.val) 8)) ∧
    (o ≠ 0x08 →
      accessAll ([0, 1, 2, 3].map fun k : Nat =>
          .write 1 (o + BitVec.ofNat 8 k) ((v.extractLsb' (8 * k) 8).setWidth 32)) s
        = hostAccess (.write 4 o v) s) ∧
    (o = 0x08 → admitted (.write 4 o v) = true ∧
      ∀ k : Fin 4, hostAccess (.write 1 (o + BitVec.ofNat 8 k.val) v) s = .fault .busError)

/-- A byte written to a KEY, IV, DIN or ST offset reads back, and no other byte of the window changes, but RK_VALID (offset
0x05), which a KEY write clears (20_memory.md R207, R208; 10_state.md R111). -/
def Obligations.WrittenByteReadsBack : Prop :=
  ∀ (s : State) (x y : BitVec 8) (d : Byte),
    ((0x10 ≤ x.toNat ∧ x.toNat < 0x40) ∨ (0x50 ≤ x.toNat ∧ x.toNat < 0x60)) →
    readByte (writeByte x d s) x = d ∧
    readByte (writeByte x d s) 0x05 = (if x.toNat < 0x20 then 0x00 else readByte s 0x05) ∧
    (y ≠ x → y ≠ 0x05 → readByte (writeByte x d s) y = readByte s y)

/-- 10_state.md R111: KEYEXP sets RK_VALID, a host write that stores into a KEY byte clears it, reset clears it, and nothing
else changes it. -/
def Obligations.RkValidWrittenInTwoWays : Prop :=
  ∀ s t : State, step s = .next t →
    match s.pending with
    | [] => False
    | .reset :: _ => t.rkValid = false
    | .access (.read _ _) :: _ => t.rkValid = s.rkValid
    | .access (.write _ o v) :: _ =>
      (o = 0x08 ∧ v = 0x00000001 → t.rkValid = true) ∧
      (0x10 ≤ o.toNat ∧ o.toNat ≤ 0x1F → t.rkValid = false) ∧
      (¬ (o = 0x08 ∧ v = 0x00000001) → ¬ (0x10 ≤ o.toNat ∧ o.toNat ≤ 0x1F) → t.rkValid = s.rkValid)

/-- 30_encoding.md R311: `wr128` stores the 16 bytes in order by four 4-byte writes, and `rd128` reads them back as four
words; a write to DOUT is ignored. The writes and reads are the next accesses of the machine. -/
def Obligations.BlockWritesAndReads : Prop :=
  (∀ (r : RegName) (b : Block), isBlockReg r = true →
    assembleLine (.wr128 r b) = some ([0, 1, 2, 3].map fun k : Nat => Access.write 4 (BitVec.ofNat 8 (regOffset r + 4 * k))
      (((b.byte (Fin.ofNat 16 (4 * k))).setWidth 32) ||| ((b.byte (Fin.ofNat 16 (4 * k + 1))).setWidth 32 <<< 8)
        ||| ((b.byte (Fin.ofNat 16 (4 * k + 2))).setWidth 32 <<< 16)
        ||| ((b.byte (Fin.ofNat 16 (4 * k + 3))).setWidth 32 <<< 24))) ∧
    assembleLine (.rd128 r) = some ([0, 1, 2, 3].map fun k : Nat => Access.read 4 (BitVec.ofNat 8 (regOffset r + 4 * k)))) ∧
  (∀ (s : State) (b : Block),
    accessAll (blockWrites .key b) s = .next { s with key := b, rkValid := false } ∧
    accessAll (blockWrites .iv b) s = .next { s with iv := b } ∧
    accessAll (blockWrites .din b) s = .next { s with din := b } ∧
    accessAll (blockWrites .dout b) s = .next s ∧
    accessAll (blockWrites .st b) s = .next { s with st := b } ∧
    accessAll (blockReads .key) s = .next { s with reads := s.reads ++ [0, 1, 2, 3].map fun k => .word (blockWord s.key k) } ∧
    accessAll (blockReads .iv) s = .next { s with reads := s.reads ++ [0, 1, 2, 3].map fun k => .word (blockWord s.iv k) } ∧
    accessAll (blockReads .din) s = .next { s with reads := s.reads ++ [0, 1, 2, 3].map fun k => .word (blockWord s.din k) } ∧
    accessAll (blockReads .dout) s = .next { s with reads := s.reads ++ [0, 1, 2, 3].map fun k => .word (blockWord s.dout k) } ∧
    accessAll (blockReads .st) s = .next { s with reads := s.reads ++ [0, 1, 2, 3].map fun k => .word (blockWord s.st k) }) ∧
  assembleLine (.wr128 .key (Block.ofHex 0x000102030405060708090a0b0c0d0e0f)) =
    some [.write 4 0x10 0x03020100, .write 4 0x14 0x07060504, .write 4 0x18 0x0B0A0908, .write 4 0x1C 0x0F0E0D0C]

/-- 30_encoding.md R312: `setkey` is `wr128 KEY` and `cmd KEYEXP`; it loads the key and expands its schedule. -/
def Obligations.SetkeyLoadsAndExpands : Prop :=
  ∀ (s : State) (k : Block), ∃ writes : List Access, ∃ command : List Access,
    assembleLine (.wr128 .key k) = some writes ∧
    assembleLine (.cmd .keyexp none none) = some command ∧
    assembleLine (.setkey k) = some (writes ++ command) ∧
    accessAll (writes ++ command) s =
      .next { s with key := k, rk := keyExpansion k, rkValid := true, err := 0x00 }

/-- 20_memory.md R200: for every platform base, `AES_BASE + offset` reaches offset 0x00..0xFF of the window, and no other
address reaches the block. -/
def Obligations.WindowAtAesBase : Prop :=
  ∀ (base addr : Nat),
    (∀ o : BitVec 8, windowOffset base (base + o.toNat) = some o) ∧
    (windowOffset base addr = none ↔ addr < base ∨ base + 256 ≤ addr)

/-! ## The step -/

/-- What a step does with the host's next event: a 4-byte write to CMD of a word that decodes to a command is `exec` of that
command, with the access taken off the list (45_system.md R560, R562; 20_memory.md R206); any other access is that access; a
reset pulse leaves the state after reset (the pulse as an event and what it keeps are the model's choice, log entry 6); with
no event left the run has ended (the model's choice, log entry 4). -/
def Obligations.StepRunsTheDecodedCommand : Prop :=
  ∀ (s : State) (rest : List HostEvent),
    (∀ (w : Word32) (i : Instr), s.pending = .access (.write 4 0x08 w) :: rest → decodeWord w = .command i →
      step s = exec i { s with pending := rest }) ∧
    (∀ a : Access, s.pending = .access a :: rest → step s = hostAccess a { s with pending := rest }) ∧
    (s.pending = .reset :: rest → step s = .next (State.afterReset (s.resets + 1) rest s.reads)) ∧
    (s.pending = [] → step s = .fault .endOfRun)

/-- A command changes only the registers its rule names (the table of 10_state.md section 1): KEY, DIN, CTRL, GF.A, GF.B and
the host's side of the interface are changed by none, and the nonce half of IV is kept by CTR_XCRYPT. -/
def Obligations.CommandsKeepOtherRegisters : Prop :=
  ∀ (i : Instr) (s t : State), exec i s = .next t →
    match i with
    | .nop => t = { s with err := t.err }
    | .keyexp => t = { s with rk := t.rk, rkValid := t.rkValid, err := t.err }
    | .rkread _ => t = { s with st := t.st, err := t.err }
    | .ecbEnc _ => t = { s with dout := t.dout, err := t.err }
    | .ecbDec _ => t = { s with dout := t.dout, err := t.err }
    | .cbcEnc _ => t = { s with dout := t.dout, iv := t.iv, err := t.err }
    | .cbcDec _ => t = { s with dout := t.dout, iv := t.iv, err := t.err }
    | .ctrXcrypt _ => t = { s with dout := t.dout, iv := t.iv, err := t.err } ∧ t.iv.c0 = s.iv.c0 ∧ t.iv.c1 = s.iv.c1
    | .subbytes => t = { s with st := t.st, err := t.err }
    | .invSubbytes => t = { s with st := t.st, err := t.err }
    | .shiftrows => t = { s with st := t.st, err := t.err }
    | .invShiftrows => t = { s with st := t.st, err := t.err }
    | .mixcolumns => t = { s with st := t.st, err := t.err }
    | .invMixcolumns => t = { s with st := t.st, err := t.err }
    | .addroundkey _ => t = { s with st := t.st, err := t.err }
    | .gfmul => t = { s with gfP := t.gfP, err := t.err }

/-- The bytes of the window a command leaves as they read before: all but STATUS.ERR (0x04) and the bytes of the registers
the command writes (20_memory.md R207; the table of 10_state.md section 1). -/
def Obligations.CommandsKeepOtherWindowBytes : Prop :=
  ∀ (i : Instr) (s t : State) (x : BitVec 8), exec i s = .next t → x ≠ 0x04 →
    (match i with
      | .nop => True
      | .keyexp => x ≠ 0x05
      | .rkread _ => ¬ offsetIn .st x
      | .ecbEnc _ => ¬ offsetIn .dout x
      | .ecbDec _ => ¬ offsetIn .dout x
      | .cbcEnc _ => ¬ offsetIn .dout x ∧ ¬ offsetIn .iv x
      | .cbcDec _ => ¬ offsetIn .dout x ∧ ¬ offsetIn .iv x
      | .ctrXcrypt _ => ¬ offsetIn .dout x ∧ ¬ (0x28 ≤ x.toNat ∧ x.toNat < 0x30)
      | .subbytes => ¬ offsetIn .st x
      | .invSubbytes => ¬ offsetIn .st x
      | .shiftrows => ¬ offsetIn .st x
      | .invShiftrows => ¬ offsetIn .st x
      | .mixcolumns => ¬ offsetIn .st x
      | .invMixcolumns => ¬ offsetIn .st x
      | .addroundkey _ => ¬ offsetIn .st x
      | .gfmul => x ≠ 0x0E) →
    readByte t x = readByte s x

/-! ## GF(2^8) -/

/-- 40_gf256.md R403: shift and add over the bits of `b` equals the product of the polynomials reduced modulo
`m(x) = 0x11B`; multiplying by 1, 2 and 3. -/
def Obligations.GmulIsPolynomialProduct : Prop :=
  ∀ a b : Byte,
    gmul a b = ((List.range 8).map fun i => if b.getLsbD i then xtime^[i] a else 0x00).foldl (fun p q => p ^^^ q) 0x00 ∧
    gmul a b = polyMod (polyMul a b) ∧
    gmul a 0x01 = a ∧ gmul a 0x02 = xtime a ∧ gmul a 0x03 = xtime a ^^^ a

/-- 40_gf256.md R404: the inverse is the unique byte with product 0x01, and the inverse of 0x00 is 0x00. -/
def Obligations.InverseIsUnique : Prop :=
  ginv 0x00 = 0x00 ∧
  ∀ a : Byte, a ≠ 0x00 → gmul a (ginv a) = 0x01 ∧ ∀ b : Byte, gmul a b = 0x01 → b = ginv a

/-- 40_gf256.md R405: the laws of multiplication. -/
def Obligations.FieldLaws : Prop :=
  ∀ a b c : Byte,
    gmul a b = gmul b a ∧
    gmul (gmul a b) c = gmul a (gmul b c) ∧
    gmul a (b ^^^ c) = gmul a b ^^^ gmul a c ∧
    gmul a 0x01 = a ∧ gmul a 0x00 = 0x00 ∧
    (gmul a b = 0x00 → a = 0x00 ∨ b = 0x00)

/-- 40_gf256.md R410: GFMUL from every state, its encoding, its corner cases and its example. -/
def Obligations.GfmulMultiplies : Prop :=
  noFieldEncoding .gfmul 0x30 ∧
  (∀ s : State, exec .gfmul s = .next { s with gfP := gmul s.gfA s.gfB, err := 0x00 }) ∧
  (∀ s : State, execAll [.gfmul, .gfmul] s = exec .gfmul s) ∧
  (∀ a : Byte, gmul a 0x00 = 0x00 ∧ gmul 0x00 a = 0x00 ∧ gmul a 0x01 = a) ∧
  gmul 0x57 0x83 = 0xC1

/-! ## The round transforms -/

/-- 41_round_transforms.md R421 and R422: the S-box table is its derivation through the inverse, it is a permutation without
a fixed point and without an opposite fixed point, and the inverse table undoes it. -/
def Obligations.SboxTables : Prop :=
  (∀ x : Byte,
    sbox x = ginv x ^^^ (ginv x).rotateLeft 1 ^^^ (ginv x).rotateLeft 2 ^^^ (ginv x).rotateLeft 3 ^^^ (ginv x).rotateLeft 4
      ^^^ 0x63 ∧
    sbox x ≠ x ∧ sbox x ≠ x ^^^ 0xFF ∧ invSbox (sbox x) = x ∧ sbox (invSbox x) = x) ∧
  sbox 0x00 = 0x63 ∧ sbox 0x01 = 0x7C ∧ sbox 0x53 = 0xED ∧ invSbox 0x00 = 0x52 ∧ invSbox 0xED = 0x53

/-- 41_round_transforms.md R424: InvSubBytes byte by byte, and the two round trips with SubBytes. -/
def Obligations.SubBytesRoundTrip : Prop :=
  ∀ s : Block,
    (∀ i : Fin 16, (invSubBytes s).byte i = invSbox (s.byte i)) ∧
    invSubBytes (subBytes s) = s ∧ subBytes (invSubBytes s) = s

/-- 41_round_transforms.md R425 and R426: the two row rotations by the formula and as byte permutations, and their round
trip. -/
def Obligations.ShiftRowsPermutations : Prop :=
  ∀ s : Block,
    (∀ r c : Fin 4,
      (shiftRows s).byte (Fin.ofNat 16 (r.val + 4 * c.val)) = s.byte (Fin.ofNat 16 (r.val + 4 * ((c.val + r.val) % 4))) ∧
      (invShiftRows s).byte (Fin.ofNat 16 (r.val + 4 * c.val))
        = s.byte (Fin.ofNat 16 (r.val + 4 * ((c.val + 4 - r.val) % 4)))) ∧
    (shiftRows s).toBytes = [0, 5, 10, 15, 4, 9, 14, 3, 8, 13, 2, 7, 12, 1, 6, 11].map s.byte ∧
    (invShiftRows s).toBytes = [0, 13, 10, 7, 4, 1, 14, 11, 8, 5, 2, 15, 12, 9, 6, 3].map s.byte ∧
    invShiftRows (shiftRows s) = s

/-- Which states ShiftRows leaves unchanged, by 41_round_transforms.md R425: rows 1 and 3 hold one repeated byte and row 2
repeats with period 2; row 0 is free. (R431 says "exactly when every row holds one repeated byte"; by R425 that is only
sufficient: log entry 14, DEDUCED.) InvShiftRows leaves the same states unchanged, and a state with four equal columns is
unchanged by both rotations. -/
def Obligations.ShiftRowsFixedStates : Prop :=
  ∀ s : Block,
    (shiftRows s = s ↔
      (s.c0.b1 = s.c1.b1 ∧ s.c1.b1 = s.c2.b1 ∧ s.c2.b1 = s.c3.b1) ∧ (s.c0.b2 = s.c2.b2 ∧ s.c1.b2 = s.c3.b2) ∧
      (s.c0.b3 = s.c1.b3 ∧ s.c1.b3 = s.c2.b3 ∧ s.c2.b3 = s.c3.b3)) ∧
    (invShiftRows s = s ↔ shiftRows s = s) ∧
    (s.c0 = s.c1 ∧ s.c1 = s.c2 ∧ s.c2 = s.c3 → shiftRows s = s ∧ invShiftRows s = s)

/-- 41_round_transforms.md R428 and R429: InvMixColumns is MixColumns three times, four times is the identity, and
InvMixColumns is the FIPS-197 inverse matrix on each column. -/
def Obligations.MixColumnsHasOrderFour : Prop :=
  ∀ s : Block,
    invMixColumns s = mixColumns (mixColumns (mixColumns s)) ∧
    mixColumns (mixColumns (mixColumns (mixColumns s))) = s ∧
    invMixColumns (mixColumns s) = s ∧ mixColumns (invMixColumns s) = s ∧
    (∀ c : Fin 4,
      let a := s.column c
      (invMixColumns s).column c =
        ⟨gmul 0x0e a.b0 ^^^ gmul 0x0b a.b1 ^^^ gmul 0x0d a.b2 ^^^ gmul 0x09 a.b3,
         gmul 0x09 a.b0 ^^^ gmul 0x0e a.b1 ^^^ gmul 0x0b a.b2 ^^^ gmul 0x0d a.b3,
         gmul 0x0d a.b0 ^^^ gmul 0x09 a.b1 ^^^ gmul 0x0e a.b2 ^^^ gmul 0x0b a.b3,
         gmul 0x0b a.b0 ^^^ gmul 0x0d a.b1 ^^^ gmul 0x09 a.b2 ^^^ gmul 0x0e a.b3⟩)

/-- 41_round_transforms.md R440 and R441: SUBBYTES and INV_SUBBYTES from every state, their encodings, corner cases and
examples. -/
def Obligations.SubBytesCommands : Prop :=
  noFieldEncoding .subbytes 0x20 ∧ noFieldEncoding .invSubbytes 0x21 ∧
  (∀ s : State, ∃ t u : State,
    exec .subbytes s = .next t ∧ t = { s with st := t.st, err := 0x00 } ∧
    (∀ i : Fin 16, t.st.byte i = sbox (s.st.byte i)) ∧
    exec .invSubbytes s = .next u ∧ u = { s with st := u.st, err := 0x00 } ∧
    (∀ i : Fin 16, u.st.byte i = invSbox (s.st.byte i)) ∧
    exec .invSubbytes t = .next { s with err := 0x00 }) ∧
  subBytes Block.zero = Block.ofHex 0x63636363636363636363636363636363 ∧
  invSubBytes Block.zero = Block.ofHex 0x52525252525252525252525252525252 ∧
  (∃ b : Block, subBytes (subBytes b) ≠ b) ∧
  subBytes (Block.ofHex 0x193de3bea0f4e22b9ac68d2ae9f84808) = Block.ofHex 0xd42711aee0bf98f1b8b45de51e415230 ∧
  invSubBytes (Block.ofHex 0xd42711aee0bf98f1b8b45de51e415230) = Block.ofHex 0x193de3bea0f4e22b9ac68d2ae9f84808

/-- 41_round_transforms.md R442 and R443: SHIFTROWS and INV_SHIFTROWS from every state, their encodings, corner cases and
examples. -/
def Obligations.ShiftRowsCommands : Prop :=
  noFieldEncoding .shiftrows 0x22 ∧ noFieldEncoding .invShiftrows 0x23 ∧
  (∀ s : State, ∃ t u : State,
    exec .shiftrows s = .next t ∧ t = { s with st := t.st, err := 0x00 } ∧
    (∀ r c : Fin 4, t.st.cell r c = s.st.cell r (c + r)) ∧
    exec .invShiftrows s = .next u ∧ u = { s with st := u.st, err := 0x00 } ∧
    (∀ r c : Fin 4, u.st.cell r c = s.st.cell r (c - r)) ∧
    exec .invShiftrows t = .next { s with err := 0x00 } ∧
    execAll [.shiftrows, .shiftrows, .shiftrows, .shiftrows] s = .next { s with err := 0x00 } ∧
    (s.st.c0 = s.st.c1 ∧ s.st.c1 = s.st.c2 ∧ s.st.c2 = s.st.c3 → t.st = s.st)) ∧
  shiftRows (Block.ofHex 0x000102030405060708090a0b0c0d0e0f) = Block.ofHex 0x00050a0f04090e03080d02070c01060b ∧
  invShiftRows (Block.ofHex 0x000102030405060708090a0b0c0d0e0f) = Block.ofHex 0x000d0a0704010e0b0805020f0c090603

/-- 41_round_transforms.md R444 and R445: MIXCOLUMNS and INV_MIXCOLUMNS from every state (the column formula of R427), their
encodings, corner cases and examples. -/
def Obligations.MixColumnsCommands : Prop :=
  noFieldEncoding .mixcolumns 0x24 ∧ noFieldEncoding .invMixcolumns 0x25 ∧
  (∀ s : State, ∃ t u : State,
    exec .mixcolumns s = .next t ∧ t = { s with st := t.st, err := 0x00 } ∧
    (∀ c : Fin 4,
      t.st.cell 0 c = gmul 0x02 (s.st.cell 0 c) ^^^ gmul 0x03 (s.st.cell 1 c) ^^^ s.st.cell 2 c ^^^ s.st.cell 3 c ∧
      t.st.cell 1 c = s.st.cell 0 c ^^^ gmul 0x02 (s.st.cell 1 c) ^^^ gmul 0x03 (s.st.cell 2 c) ^^^ s.st.cell 3 c ∧
      t.st.cell 2 c = s.st.cell 0 c ^^^ s.st.cell 1 c ^^^ gmul 0x02 (s.st.cell 2 c) ^^^ gmul 0x03 (s.st.cell 3 c) ∧
      t.st.cell 3 c = gmul 0x03 (s.st.cell 0 c) ^^^ s.st.cell 1 c ^^^ s.st.cell 2 c ^^^ gmul 0x02 (s.st.cell 3 c) ∧
      (s.st.cell 0 c = s.st.cell 1 c ∧ s.st.cell 1 c = s.st.cell 2 c ∧ s.st.cell 2 c = s.st.cell 3 c →
        t.st.column c = s.st.column c ∧ u.st.column c = s.st.column c)) ∧
    exec .invMixcolumns s = .next u ∧ u = { s with st := mixColumns (mixColumns (mixColumns s.st)), err := 0x00 } ∧
    exec .invMixcolumns t = .next { s with err := 0x00 } ∧
    execAll [.mixcolumns, .mixcolumns, .mixcolumns, .mixcolumns] s = .next { s with err := 0x00 }) ∧
  mixColumn (Column.ofHex 0xdb135345) = Column.ofHex 0x8e4da1bc ∧
  mixColumn (mixColumn (mixColumn (Column.ofHex 0x8e4da1bc))) = Column.ofHex 0xdb135345 ∧
  mixColumns (Block.ofHex 0xd4bf5d30e0b452aeb84111f11e2798e5) = Block.ofHex 0x046681e5e0cb199a48f8d37a2806264c

/-- 41_round_transforms.md R446: ADDROUNDKEY in every state and for every index, its encoding, its errors in order, its
corner cases and its example. -/
def Obligations.AddRoundKeyCommand : Prop :=
  ridxEncoding .addroundkey 0x26 ∧
  (∀ (s : State) (ridx : Nat),
    (10 < ridx → exec (.addroundkey ridx) s = .next { s with err := 0x02 }) ∧
    (ridx ≤ 10 → s.rkValid = false → exec (.addroundkey ridx) s = .next { s with err := 0x04 }) ∧
    (ridx ≤ 10 → s.rkValid = true →
      ∃ t : State, exec (.addroundkey ridx) s = .next t ∧ t = { s with st := t.st, err := 0x00 } ∧
        (∀ i : Fin 16, t.st.byte i = s.st.byte i ^^^ (s.rk.get (Fin.ofNat 11 ridx)).byte i) ∧
        exec (.addroundkey ridx) t = .next { s with err := 0x00 }) ∧
    (s.rkValid = true → s.Inv → exec (.addroundkey 0) s = .next { s with st := s.st.xor s.key, err := 0x00 })) ∧
  (∀ s : State, exec (.addroundkey 0)
      { s with rk := keyExpansion (Block.ofHex 0x2b7e151628aed2a6abf7158809cf4f3c), rkValid := true,
               st := Block.ofHex 0x3243f6a8885a308d313198a2e0370734 }
    = .next { s with rk := keyExpansion (Block.ofHex 0x2b7e151628aed2a6abf7158809cf4f3c), rkValid := true, err := 0x00,
                     st := Block.ofHex 0x193de3bea0f4e22b9ac68d2ae9f84808 })

/-! ## The key schedule -/

/-- 42_key_schedule.md R460 to R464: RotWord, SubWord and Rcon[1..10] by their formulas, the recurrence of the 44 words, and
round key `r` as words `4r .. 4r+3`. -/
def Obligations.KeyScheduleRecurrence : Prop :=
  (∀ w : Column, rotWord w = ⟨w.b1, w.b2, w.b3, w.b0⟩ ∧ subWord w = ⟨sbox w.b0, sbox w.b1, sbox w.b2, sbox w.b3⟩) ∧
  rcon 1 = ⟨0x01, 0x00, 0x00, 0x00⟩ ∧
  (∀ i : Nat, 2 ≤ i → i ≤ 10 → rcon i = ⟨xtime (rcon (i - 1)).b0, 0x00, 0x00, 0x00⟩) ∧
  ∀ key : Block,
    (∀ j : Fin 4, scheduleWord key j.val = key.column j) ∧
    (∀ i : Nat, 1 ≤ i → i ≤ 10 →
      scheduleWord key (4 * i) =
        ((subWord (rotWord (scheduleWord key (4 * i - 1)))).xor (rcon i)).xor (scheduleWord key (4 * (i - 1))) ∧
      ∀ j : Nat, 1 ≤ j → j ≤ 3 →
        scheduleWord key (4 * i + j) = (scheduleWord key (4 * (i - 1) + j)).xor (scheduleWord key (4 * i + j - 1))) ∧
    (∀ r : Fin 11, (keyExpansion key).get r =
      ⟨scheduleWord key (4 * r.val), scheduleWord key (4 * r.val + 1), scheduleWord key (4 * r.val + 2),
       scheduleWord key (4 * r.val + 3)⟩)

/-- 42_key_schedule.md R465: KEYEXP from every state, its encoding, its corner cases and its example; no other command
changes RK. -/
def Obligations.KeyexpExpands : Prop :=
  noFieldEncoding .keyexp 0x01 ∧
  (∀ s : State, exec .keyexp s = .next { s with rk := keyExpansion s.key, rkValid := true, err := 0x00 }) ∧
  (∀ s : State, execAll [.keyexp, .keyexp] s = exec .keyexp s) ∧
  (∀ (i : Instr) (s t : State), exec i s = .next t → i ≠ .keyexp → t.rk = s.rk) ∧
  (keyExpansion Block.zero).get 1 = Block.ofHex 0x62636363626363636263636362636363 ∧
  (keyExpansion (Block.ofHex 0x2b7e151628aed2a6abf7158809cf4f3c)).get 1 = Block.ofHex 0xa0fafe1788542cb123a339392a6c7605 ∧
  (keyExpansion (Block.ofHex 0x2b7e151628aed2a6abf7158809cf4f3c)).get 10 = Block.ofHex 0xd014f9a8c9ee2589e13f0cc8b6630ca6

/-- 42_key_schedule.md R466: RKREAD in every state and for every index, its encoding, its errors in order, its corner cases
and its example. -/
def Obligations.RkreadCopiesRoundKey : Prop :=
  ridxEncoding .rkread 0x02 ∧
  (∀ (s : State) (ridx : Nat),
    (10 < ridx → exec (.rkread ridx) s = .next { s with err := 0x02 }) ∧
    (ridx ≤ 10 → s.rkValid = false → exec (.rkread ridx) s = .next { s with err := 0x04 }) ∧
    (ridx ≤ 10 → s.rkValid = true →
      exec (.rkread ridx) s = .next { s with st := s.rk.get (Fin.ofNat 11 ridx), err := 0x00 }) ∧
    (s.rkValid = true → s.Inv → exec (.rkread 0) s = .next { s with st := s.key, err := 0x00 })) ∧
  (∀ s : State, execAll [.keyexp, .rkread 10] { s with key := Block.ofHex 0x2b7e151628aed2a6abf7158809cf4f3c } =
    .next { s with key := Block.ofHex 0x2b7e151628aed2a6abf7158809cf4f3c, rkValid := true, err := 0x00,
                   rk := keyExpansion (Block.ofHex 0x2b7e151628aed2a6abf7158809cf4f3c),
                   st := Block.ofHex 0xd014f9a8c9ee2589e13f0cc8b6630ca6 })

/-- 42_key_schedule.md R467, its first three laws: round key 0 is the key, and each round key with the next index determines
the next one, so each determines every later one. -/
def Obligations.ScheduleLaws : Prop :=
  (∀ k : Block, (keyExpansion k).get 0 = k) ∧
  (∀ (k k' : Block) (r : Nat), r < 10 →
    (keyExpansion k).get (Fin.ofNat 11 r) = (keyExpansion k').get (Fin.ofNat 11 r) →
    ∀ q : Nat, r ≤ q → q ≤ 10 → (keyExpansion k).get (Fin.ofNat 11 q) = (keyExpansion k').get (Fin.ofNat 11 q))

/-! ## The block cipher -/

/-- 43_block_cipher.md R482: decryption undoes encryption and encryption undoes decryption, for every block and every
schedule of 11 round keys. -/
def Obligations.CipherRoundTrip : Prop :=
  ∀ (b : Block) (rk : Vector Block 11), invCipher (cipher b rk) rk = b ∧ cipher (invCipher b rk) rk = b

/-- 43_block_cipher.md R483: the single-transform commands in the order of R480, issued on ST, compute Cipher, and the
mirrored commands of R481 compute InvCipher. -/
def Obligations.TransformCommandsComputeCipher : Prop :=
  ∀ s : State, s.rkValid = true →
    execAll cipherCommands s = .next { s with st := cipher s.st s.rk, err := 0x00 } ∧
    execAll invCipherCommands s = .next { s with st := invCipher s.st s.rk, err := 0x00 }

/-- 43_block_cipher.md R484: for a fixed schedule Cipher is a permutation of the blocks; the all-zero block under the
all-zero key. -/
def Obligations.CipherIsPermutation : Prop :=
  (∀ rk : Vector Block 11,
    (∀ p q : Block, cipher p rk = cipher q rk → p = q) ∧ (∀ c : Block, ∃ p : Block, cipher p rk = c)) ∧
  cipher Block.zero (keyExpansion Block.zero) = Block.ofHex 0x66e94bd4ef8a2c3b884cfa59ca342b2e

/-! ## The mode commands -/

/-- 44_modes.md R510 and R511: ECB_ENC and ECB_DEC in every state and for every LEN, their encodings, their errors in order,
their corner cases and their examples. -/
def Obligations.EcbCommands : Prop :=
  lenEncoding .ecbEnc 0x10 ∧ lenEncoding .ecbDec 0x11 ∧
  (∀ (s : State) (len : Nat),
    (len ≠ 16 → exec (.ecbEnc len) s = .next { s with err := 0x03 } ∧ exec (.ecbDec len) s = .next { s with err := 0x03 }) ∧
    (s.rkValid = false →
      exec (.ecbEnc 16) s = .next { s with err := 0x04 } ∧ exec (.ecbDec 16) s = .next { s with err := 0x04 }) ∧
    (s.rkValid = true →
      exec (.ecbEnc 16) s = .next { s with dout := cipher s.din s.rk, err := 0x00 } ∧
      exec (.ecbDec 16) s = .next { s with dout := invCipher s.din s.rk, err := 0x00 } ∧
      execAll [.ecbEnc 16, .ecbEnc 16] s = exec (.ecbEnc 16) s ∧
      ∃ t u : State, exec (.ecbEnc 16) s = .next t ∧ exec (.ecbDec 16) { t with din := t.dout } = .next u ∧ u.dout = s.din)) ∧
  cipher Block.zero (keyExpansion Block.zero) = Block.ofHex 0x66e94bd4ef8a2c3b884cfa59ca342b2e ∧
  cipher (Block.ofHex 0x6bc1bee22e409f96e93d7e117393172a) (keyExpansion (Block.ofHex 0x2b7e151628aed2a6abf7158809cf4f3c))
    = Block.ofHex 0x3ad77bb40d7a3660a89ecaf32466ef97 ∧
  invCipher (Block.ofHex 0x3ad77bb40d7a3660a89ecaf32466ef97) (keyExpansion (Block.ofHex 0x2b7e151628aed2a6abf7158809cf4f3c))
    = Block.ofHex 0x6bc1bee22e409f96e93d7e117393172a

/-- 44_modes.md R512 and R513: CBC_ENC and CBC_DEC in every state and for every LEN, their encodings, their errors in order,
their corner cases and their examples. The last clause of the middle part is R513's: a mask on the DIN of one block is the
same mask on the DOUT of the next. -/
def Obligations.CbcCommands : Prop :=
  lenEncoding .cbcEnc 0x12 ∧ lenEncoding .cbcDec 0x13 ∧
  (∀ (s : State) (len : Nat),
    (len ≠ 16 → exec (.cbcEnc len) s = .next { s with err := 0x03 } ∧ exec (.cbcDec len) s = .next { s with err := 0x03 }) ∧
    (s.rkValid = false →
      exec (.cbcEnc 16) s = .next { s with err := 0x04 } ∧ exec (.cbcDec 16) s = .next { s with err := 0x04 }) ∧
    (s.rkValid = true →
      exec (.cbcEnc 16) s =
        .next { s with dout := cipher (s.din.xor s.iv) s.rk, iv := cipher (s.din.xor s.iv) s.rk, err := 0x00 } ∧
      exec (.cbcDec 16) s = .next { s with dout := (invCipher s.din s.rk).xor s.iv, iv := s.din, err := 0x00 } ∧
      (s.iv = Block.zero → ∃ t u : State, exec (.cbcEnc 16) s = .next t ∧ exec (.ecbEnc 16) s = .next u ∧ t.dout = u.dout) ∧
      ∀ mask nextBlock : Block, ∃ t u v w : State,
        exec (.cbcDec 16) s = .next t ∧ exec (.cbcDec 16) { t with din := nextBlock } = .next u ∧
        exec (.cbcDec 16) { s with din := s.din.xor mask } = .next v ∧
        exec (.cbcDec 16) { v with din := nextBlock } = .next w ∧ w.dout = u.dout.xor mask)) ∧
  cipher ((Block.ofHex 0x6bc1bee22e409f96e93d7e117393172a).xor (Block.ofHex 0x000102030405060708090a0b0c0d0e0f))
      (keyExpansion (Block.ofHex 0x2b7e151628aed2a6abf7158809cf4f3c)) = Block.ofHex 0x7649abac8119b246cee98e9b12e9197d ∧
  (invCipher (Block.ofHex 0x7649abac8119b246cee98e9b12e9197d)
      (keyExpansion (Block.ofHex 0x2b7e151628aed2a6abf7158809cf4f3c))).xor (Block.ofHex 0x000102030405060708090a0b0c0d0e0f)
    = Block.ofHex 0x6bc1bee22e409f96e93d7e117393172a

/-- 44_modes.md R514: CTR_XCRYPT in every state and for every LEN, its encoding, its errors in order, its corner cases and
its example. -/
def Obligations.CtrCommand : Prop :=
  lenEncoding .ctrXcrypt 0x14 ∧
  (∀ (s : State) (len : Nat),
    (len = 0 ∨ 16 < len → exec (.ctrXcrypt len) s = .next { s with err := 0x03 }) ∧
    (1 ≤ len → len ≤ 16 → s.rkValid = false → exec (.ctrXcrypt len) s = .next { s with err := 0x04 }) ∧
    (1 ≤ len → len ≤ 16 → s.rkValid = true →
      ∃ t : State, exec (.ctrXcrypt len) s = .next t ∧ t = { s with dout := t.dout, iv := t.iv, err := 0x00 } ∧
        (∀ i : Fin 16, t.dout.byte i =
          if i.val < len then s.din.byte i ^^^ (cipher s.iv s.rk).byte i else 0x00) ∧
        t.iv.c0 = s.iv.c0 ∧ t.iv.c1 = s.iv.c1 ∧
        (t.iv.c2, t.iv.c3) = ctrBytes (ctrValue (s.iv.c2, s.iv.c3) s.ctrLe + 1) s.ctrLe ∧
        (s.iv.c2 = ⟨0xFF, 0xFF, 0xFF, 0xFF⟩ → s.iv.c3 = ⟨0xFF, 0xFF, 0xFF, 0xFF⟩ →
          t.iv.c2 = ⟨0, 0, 0, 0⟩ ∧ t.iv.c3 = ⟨0, 0, 0, 0⟩) ∧
        (∀ d : Block, (∀ i : Fin 16, i.val < len → d.byte i = s.din.byte i) →
          exec (.ctrXcrypt len) { s with din := d } = .next { t with din := d }))) ∧
  (∀ s : State,
    exec (.ctrXcrypt 16)
      { s with rk := keyExpansion (Block.ofHex 0x59454c4c4f57205355424d4152494e45), rkValid := true, iv := Block.zero,
               ctrLe := true, din := Block.ofHex 0x2fbee76bf9eb16c2afca777a1f33a81b } =
    .next { s with rk := keyExpansion (Block.ofHex 0x59454c4c4f57205355424d4152494e45), rkValid := true,
                   iv := Block.ofHex 0x00000000000000000100000000000000, ctrLe := true,
                   din := Block.ofHex 0x2fbee76bf9eb16c2afca777a1f33a81b,
                   dout := Block.ofHex 0x596f2c20564950204c65742773206b69, err := 0x00 })

/-- 44_modes.md R504 and R515: CtrBytes and CtrValue are inverse to each other, CtrValue is the sum of the rule in both byte
orders, and CtrIncrement adds 1 modulo 2^64 with a carry that ripples from the least significant byte and is discarded at
the end; the byte order after reset is little-endian. -/
def Obligations.CtrIncrementRipples : Prop :=
  (∀ (nonce : Column × Column) (n : BitVec 64) (le : Bool),
    ctrValue (ctrBytes n le) le = n ∧
    ctrBlock nonce n le = ⟨nonce.1, nonce.2, (ctrBytes n le).1, (ctrBytes n le).2⟩ ∧
    counterBytes (ctrBytes n true) = (List.range 8).map (fun k => n.extractLsb' (8 * k) 8) ∧
    counterBytes (ctrBytes n false) = (List.range 8).map (fun k => n.extractLsb' (8 * (7 - k)) 8)) ∧
  (∀ b : Column × Column,
    (ctrValue b true).toNat = ((counterBytes b).zipIdx.map fun p => p.1.toNat * 256 ^ p.2).sum ∧
    (ctrValue b false).toNat = ((counterBytes b).reverse.zipIdx.map fun p => p.1.toNat * 256 ^ p.2).sum ∧
    (∀ le : Bool, ctrIncrement b le = ctrBytes (BitVec.ofNat 64 (((ctrValue b le).toNat + 1) % 2 ^ 64)) le) ∧
    counterBytes (ctrIncrement b true) = rippleIncrement (counterBytes b) ∧
    counterBytes (ctrIncrement b false) = (rippleIncrement (counterBytes b).reverse).reverse) ∧
  ctrIncrement (⟨0, 0, 0, 0⟩, ⟨0, 0, 0, 0⟩) true = (⟨1, 0, 0, 0⟩, ⟨0, 0, 0, 0⟩) ∧
  ctrIncrement (⟨0xf8, 0xf9, 0xfa, 0xfb⟩, ⟨0xfc, 0xfd, 0xfe, 0xff⟩) false
    = (⟨0xf8, 0xf9, 0xfa, 0xfb⟩, ⟨0xfc, 0xfd, 0xff, 0x00⟩) ∧
  (∀ le : Bool, ctrIncrement (⟨0xff, 0xff, 0xff, 0xff⟩, ⟨0xff, 0xff, 0xff, 0xff⟩) le = (⟨0, 0, 0, 0⟩, ⟨0, 0, 0, 0⟩)) ∧
  State.reset.ctrLe = true

/-! ## Messages -/

/-- ECB and CBC decryption of a message undo its encryption, and exactly the messages whose length is no multiple of 16 are
malformed (44_modes.md R500 to R503, R517). -/
def Obligations.EcbCbcMessagesRoundTrip : Prop :=
  ∀ (key : Block) (iv : Option Block) (m c : List Byte),
    (ecbEncrypt key m = .bytes c → ecbDecrypt key c = .bytes m ∧ c.length = m.length) ∧
    (cbcEncrypt key iv m = .bytes c → cbcDecrypt key iv c = .bytes m ∧ c.length = m.length) ∧
    (ecbEncrypt key m = .malformedInput ↔ m.length % 16 ≠ 0) ∧ (ecbDecrypt key m = .malformedInput ↔ m.length % 16 ≠ 0) ∧
    (cbcEncrypt key iv m = .malformedInput ↔ m.length % 16 ≠ 0) ∧
    (cbcDecrypt key iv m = .malformedInput ↔ m.length % 16 ≠ 0)

/-- CTR takes a message of any length, is its own inverse, and a change of ciphertext bits changes the same plaintext bits
and no others (44_modes.md R505, R506). -/
def Obligations.CtrMessagesSelfInverse : Prop :=
  ∀ (key : Block) (nonce : Option (Column × Column)) (m d : List Byte) (le : Bool) (c0 : BitVec 64),
    (ctrCrypt key nonce m le c0).length = m.length ∧
    ctrCrypt key nonce (ctrCrypt key nonce m le c0) le c0 = m ∧
    (d.length = m.length →
      ctrCrypt key nonce (List.zipWith (fun a b => a ^^^ b) m d) le c0 =
        List.zipWith (fun a b => a ^^^ b) (ctrCrypt key nonce m le c0) d)

/-- CBC error propagation (44_modes.md R506): a mask `d` on ciphertext block `i` changes plaintext block `i+1` by exactly
`d`, block `i` by `InvCipher(C_i xor d) xor InvCipher(C_i)`, and no other block; a mask on the IV changes block 0 alone. -/
def Obligations.CbcErrorPropagation : Prop :=
  ∀ (rk : Vector Block 11) (iv c d : Block) (before after : List Block) (i : Nat),
    (cbcDecryptBlocks rk iv (before ++ c.xor d :: after))[i]? =
      (if i = before.length then
        (cbcDecryptBlocks rk iv (before ++ c :: after))[i]?.map
          (fun p => p.xor ((invCipher (c.xor d) rk).xor (invCipher c rk)))
      else if i = before.length + 1 then
        (cbcDecryptBlocks rk iv (before ++ c :: after))[i]?.map (fun p => p.xor d)
      else (cbcDecryptBlocks rk iv (before ++ c :: after))[i]?) ∧
    (cbcDecryptBlocks rk (iv.xor d) before)[i]? =
      (if i = 0 then (cbcDecryptBlocks rk iv before)[i]?.map (fun p => p.xor d) else (cbcDecryptBlocks rk iv before)[i]?)

/-- Streaming a message block by block through ECB_ENC and ECB_DEC gives the message functions (44_modes.md R516, its ECB
part). -/
def Obligations.EcbStreamIsMessage : Prop :=
  ∀ (s : State) (m c : List Byte) (bs : List Block), s.Inv → s.rkValid = true → blocksOf m = some bs →
    (ecbEncrypt s.key m = .bytes c → ∃ (cs : List Block) (t : State),
      streamBlocks (.ecbEnc 16) bs s = some (cs, t) ∧ bytesOf cs = c) ∧
    (ecbDecrypt s.key m = .bytes c → ∃ (cs : List Block) (t : State),
      streamBlocks (.ecbDec 16) bs s = some (cs, t) ∧ bytesOf cs = c)

/-- Streaming a message through CBC_ENC and CBC_DEC from the IV in the IV register gives the message functions, and IV ends
as the last ciphertext block (44_modes.md R516, its CBC part; R705). -/
def Obligations.CbcStreamIsMessage : Prop :=
  ∀ (s : State) (m c : List Byte) (bs : List Block), s.Inv → s.rkValid = true → blocksOf m = some bs →
    (cbcEncrypt s.key (some s.iv) m = .bytes c → ∃ (cs : List Block) (t : State),
      streamBlocks (.cbcEnc 16) bs s = some (cs, t) ∧ bytesOf cs = c ∧ t.iv = cs.getLastD s.iv) ∧
    (cbcDecrypt s.key (some s.iv) m = .bytes c → ∃ (cs : List Block) (t : State),
      streamBlocks (.cbcDec 16) bs s = some (cs, t) ∧ bytesOf cs = c ∧ t.iv = bs.getLastD s.iv)

/-- Streaming a message of any length through CTR_XCRYPT gives the message function, with the nonce and counter of the IV
register and the byte order of CTR_LE, and the counter advances by one per piece (44_modes.md R516, its CTR part). -/
def Obligations.CtrStreamIsMessage : Prop :=
  ∀ (s : State) (m : List Byte), s.Inv → s.rkValid = true →
    ∃ t : State, streamCtr (pieces (ctrBlockCount m) m) s =
      some (ctrCrypt s.key (some (s.iv.c0, s.iv.c1)) m s.ctrLe (ctrValue (s.iv.c2, s.iv.c3) s.ctrLe), t) ∧
      t.iv = ctrBlock (s.iv.c0, s.iv.c1)
        (ctrValue (s.iv.c2, s.iv.c3) s.ctrLe + BitVec.ofNat 64 (ctrBlockCount m)) s.ctrLe

/-! ## Results and errors of commands -/

/-- 45_system.md R561: NOP from every state, its encoding, and the example. -/
def Obligations.NopClearsErr : Prop :=
  noFieldEncoding .nop 0x00 ∧
  (∀ w : Word32, decodeWord w = .command .nop ↔ w = 0x00000000) ∧
  (∀ s : State, exec .nop s = .next { s with err := 0x00 }) ∧
  (∀ s : State, exec (.ecbEnc 15) s = .next { s with err := 0x03 } ∧ execAll [.ecbEnc 15, .nop] s = .next { s with err := 0x00 })

/-- 60_exceptions.md R602: which code a command word gives, in the order illegal, RIDX, LENGTH, NOKEY; with no error the
command succeeds with code 0x00. -/
def Obligations.ErrorPriority : Prop :=
  ∀ (w : Word32) (s : State),
    ((∃ why, decodeWord w = .illegal why) → runCommand w s = .next { s with err := 0x01 }) ∧
    (∀ i : Instr, decodeWord w = .command i →
      (∀ e : CmdStatus, fieldError i = some e → runCommand w s = .next { s with err := errCode e }) ∧
      (fieldError i = none → needsKeys i = true → s.rkValid = false → runCommand w s = .next { s with err := 0x04 }) ∧
      (fieldError i = none → (needsKeys i = true → s.rkValid = true) →
        ∃ t : State, runCommand w s = .next t ∧ t.err = 0x00)) ∧
    runCommand 0x00000B26 State.reset = .next { State.reset with err := 0x02 }

/-- 60_exceptions.md R600 and R601: every command word completes with one of the codes 0x00 to 0x04, each code exactly for
its cause; with any but 0x00 nothing but STATUS.ERR has changed. -/
def Obligations.ErrorCodesAndTheirCauses : Prop :=
  ∀ (w : Word32) (s : State), ∃ t : State, runCommand w s = .next t ∧ t.err.toNat ≤ 4 ∧
    (t.err ≠ 0x00 → t = { s with err := t.err }) ∧
    (t.err = 0x01 ↔ ∃ why, decodeWord w = .illegal why) ∧
    (t.err = 0x02 ↔ ∃ ridx, (decodeWord w = .command (.rkread ridx) ∨ decodeWord w = .command (.addroundkey ridx)) ∧ 10 < ridx) ∧
    (t.err = 0x03 ↔ ∃ len,
      ((decodeWord w = .command (.ecbEnc len) ∨ decodeWord w = .command (.ecbDec len) ∨
        decodeWord w = .command (.cbcEnc len) ∨ decodeWord w = .command (.cbcDec len)) ∧ len ≠ 16) ∨
      (decodeWord w = .command (.ctrXcrypt len) ∧ (len = 0 ∨ 16 < len))) ∧
    (t.err = 0x04 ↔ ∃ i, decodeWord w = .command i ∧ fieldError i = none ∧ needsKeys i = true ∧ s.rkValid = false)

/-- 60_exceptions.md R603: each command overwrites STATUS.ERR with its own result, and a successful one writes 0x00; neither
the result nor any effect depends on what STATUS.ERR held. -/
def Obligations.ErrIsNotSticky : Prop :=
  ∀ (w : Word32) (s : State) (e : Byte),
    runCommand w { s with err := e } = runCommand w s ∧
    (∀ i : Instr, decodeWord w = .command i → fieldError i = none → (needsKeys i = true → s.rkValid = true) →
      ∃ t : State, runCommand w { s with err := e } = .next t ∧ t.err = 0x00)

/-! ## Reset, the invariant and runs -/

/-- 70_reset_and_hazards.md R701: the state after any reset, register by register and as the bus reads it; RK is the free value
of log entry 1, and no clause speaks of it. -/
def Obligations.ResetState : Prop :=
  (∀ (n : Nat) (p : List HostEvent) (r : List BusValue),
    let s := State.afterReset n p r
    s.ctrLe = true ∧ s.err = 0x00 ∧ s.rkValid = false ∧ s.gfA = 0x00 ∧ s.gfB = 0x00 ∧ s.gfP = 0x00 ∧
    (∀ i : Fin 16, s.key.byte i = 0x00 ∧ s.iv.byte i = 0x00 ∧ s.din.byte i = 0x00 ∧ s.dout.byte i = 0x00 ∧
      s.st.byte i = 0x00) ∧
    (∀ x : BitVec 8, readByte s x = if x = 0x00 then 0x01 else 0x00)) ∧
  State.reset = State.afterReset 0 [] []

/-- 70_reset_and_hazards.md R702: after reset KEY is zero and RK_VALID is 0. In every state with RK_VALID = 0 every command that
needs round keys, given legal fields, fails with ERR_NOKEY; every step but the CMD write of KEYEXP keeps RK_VALID at 0; so,
whatever events follow a reset, it fails until KEYEXP has been written. KEYEXP makes it succeed. (That the events after a reset
may hold further reset pulses is log entry 6.) -/
def Obligations.NoKeyAfterReset : Prop :=
  (∀ (n : Nat) (p : List HostEvent) (r : List BusValue),
    (State.afterReset n p r).key = Block.zero ∧ (State.afterReset n p r).rkValid = false) ∧
  (∀ s t : State, s.rkValid = false → s.pending.head? ≠ some (.access (.write 4 0x08 0x00000001)) → step s = .next t →
    t.rkValid = false) ∧
  (∀ i : Instr, needsKeys i = true → fieldError i = none →
    (∀ s : State, s.rkValid = false → exec i s = .next { s with err := 0x04 }) ∧
    (∀ (n k : Nat) (p : List HostEvent) (r : List BusValue) (t : State),
      .access (.write 4 0x08 0x00000001) ∉ p.take k → runEvents k (State.afterReset n p r) = .next t →
      exec i t = .next { t with err := 0x04 }) ∧
    (∀ s : State, ∃ t u : State, exec .keyexp s = .next t ∧ exec i t = .next u ∧ u.err = 0x00))

/-- The invariant holds after reset (10_state.md R110; 70_reset_and_hazards.md R701). -/
def Obligations.InvariantAtReset : Prop :=
  State.reset.Inv

/-- Every step keeps the invariant: RK is the schedule of KEY whenever RK_VALID is 1, and ERR is a code of R600
(10_state.md R110; 42_key_schedule.md R467; 60_exceptions.md R600). -/
def Obligations.StepKeepsInvariant : Prop :=
  ∀ s t : State, s.Inv → step s = .next t → t.Inv

/-- The unspecified content of RK is never observed (10_state.md R109, R115; 70_reset_and_hazards.md R702): two states that
differ only in an RK that is not valid read alike at every byte of the window and step to states that cannot be told apart
either, with the same values read. -/
def Obligations.UnspecifiedRoundKeysUnobserved : Prop :=
  ∀ s t : State, s.sameView t →
    (∀ x : BitVec 8, readByte s x = readByte t x) ∧ sameOutcome (step s) (step t)

/-- A run ends with every access performed exactly when the block admits every access, with one value per read; otherwise it
ends in a bus error (20_memory.md R209; 70_reset_and_hazards.md R710). No command ever stops a run. That the events and the
values read are lists of the state is log entry 3, and that a run may hold reset pulses is log entry 6. -/
def Obligations.RunsFaultOnlyOnRefusedAccess : Prop :=
  ∀ s : State,
    (s.pendingAdmitted → ∃ t : State, runPending s = .next t ∧ t.pending = [] ∧
      t.reads.length = s.reads.length + s.pending.countP isReadEvent) ∧
    (¬ s.pendingAdmitted → runPending s = .fault .busError)
end

