-- ==== Sys2Proof/Laws/Blocks.lean ====
section
/-! SUPPORT. The small lemmas of bytes, columns and blocks. -/

namespace Sys2Proof

theorem Column.ext_bytes {v w : Column} (h0 : v.b0 = w.b0) (h1 : v.b1 = w.b1) (h2 : v.b2 = w.b2) (h3 : v.b3 = w.b3) :
    v = w := by
  cases v
  cases w
  simp_all

theorem Block.ext_columns {a b : Block} (h0 : a.c0 = b.c0) (h1 : a.c1 = b.c1) (h2 : a.c2 = b.c2) (h3 : a.c3 = b.c3) :
    a = b := by
  cases a
  cases b
  simp_all

/-- A block is its 16 bytes. -/
theorem Block.ext_byte {a b : Block} (h : ∀ i, a.byte i = b.byte i) : a = b := by
  apply Block.ext_columns <;> apply Column.ext_bytes
  exacts [h 0, h 1, h 2, h 3, h 4, h 5, h 6, h 7, h 8, h 9, h 10, h 11, h 12, h 13, h 14, h 15]

/-- A block is its 16 cells. -/
theorem Block.ext_cell {a b : Block} (h : ∀ r c, a.cell r c = b.cell r c) : a = b :=
  Block.ext_byte fun _ => h _ _

@[simp] theorem Block.byte_ofBytes (f : Fin 16 → Byte) (i : Fin 16) : (Block.ofBytes f).byte i = f i := by
  fin_cases i <;> rfl

@[simp] theorem Block.cell_ofCells (f : Fin 4 → Fin 4 → Byte) (r c : Fin 4) : (Block.ofCells f).cell r c = f r c := by
  fin_cases r <;> fin_cases c <;> rfl

theorem Block.byte_setByte (b : Block) (i j : Fin 16) (v : Byte) :
    (b.setByte i v).byte j = if j = i then v else b.byte j := by
  simp [Block.setByte]

@[simp] theorem Block.byte_setByte_self (b : Block) (i : Fin 16) (v : Byte) : (b.setByte i v).byte i = v := by
  simp [Block.setByte]

@[simp] theorem Block.byte_xor (a b : Block) (i : Fin 16) : (a.xor b).byte i = a.byte i ^^^ b.byte i := by
  fin_cases i <;> rfl

@[simp] theorem Block.byte_mapBytes (f : Byte → Byte) (b : Block) (i : Fin 16) : (b.mapBytes f).byte i = f (b.byte i) := by
  fin_cases i <;> rfl

@[simp] theorem Block.cell_xor (a b : Block) (r c : Fin 4) : (a.xor b).cell r c = a.cell r c ^^^ b.cell r c := by
  fin_cases r <;> fin_cases c <;> rfl

@[simp] theorem Block.cell_mapBytes (f : Byte → Byte) (b : Block) (r c : Fin 4) :
    (b.mapBytes f).cell r c = f (b.cell r c) := by
  fin_cases r <;> fin_cases c <;> rfl

@[simp] theorem Block.column_mapColumns (f : Column → Column) (b : Block) (c : Fin 4) :
    (b.mapColumns f).column c = f (b.column c) := by
  fin_cases c <;> rfl

@[simp] theorem Block.byte_zero (i : Fin 16) : Block.zero.byte i = 0x00 := by
  fin_cases i <;> rfl

theorem Block.xor_comm (a b : Block) : a.xor b = b.xor a :=
  Block.ext_byte fun i => by simp [BitVec.xor_comm]

theorem Block.xor_assoc (a b c : Block) : (a.xor b).xor c = a.xor (b.xor c) :=
  Block.ext_byte fun i => by simp [BitVec.xor_assoc]

@[simp] theorem Block.xor_self (a : Block) : a.xor a = Block.zero :=
  Block.ext_byte fun i => by simp

@[simp] theorem Block.xor_zero (a : Block) : a.xor Block.zero = a :=
  Block.ext_byte fun i => by simp

/-- XOR with the same block twice gives the block back. -/
@[simp] theorem Block.xor_xor_cancel (a b : Block) : (a.xor b).xor b = a := by
  rw [Block.xor_assoc, Block.xor_self, Block.xor_zero]

@[simp] theorem Block.toBytes_length (b : Block) : b.toBytes.length = 16 := rfl

end Sys2Proof
end

