-- ==== Sys2Proof/Laws/Decode.lean ====
section
/-! SUPPORT. What the decoder can answer, said once. -/

namespace Sys2Proof

/-- The row of an OP value is the one that holds it. -/
theorem mnemonicOf_eq_some {op : Byte} {m : Mnemonic} : mnemonicOf op = some m ↔ m.op = op := by
  constructor
  · intro h
    simpa using List.find?_some h
  · rintro rfl
    cases m <;> decide

/-- No row holds a reserved OP value. -/
theorem mnemonicOf_eq_none {op : Byte} : mnemonicOf op = none ↔ ∀ m : Mnemonic, m.op ≠ op := by
  rw [Option.eq_none_iff_forall_ne_some]
  exact forall_congr' fun m => not_congr mnemonicOf_eq_some

/-- The three answers of the decoder (30_encoding.md R306). -/
theorem decodeWord_cases (w : Word32) :
    (∃ m : Mnemonic, m.op = opField w ∧ w &&& m.mask = m.fixedBits ∧
      decodeWord w = .command (m.command (ridxField w) (lenField w))) ∨
    (∃ m : Mnemonic, m.op = opField w ∧ w &&& m.mask ≠ m.fixedBits ∧ decodeWord w = .illegal .reservedBit) ∨
    ((∀ m : Mnemonic, m.op ≠ opField w) ∧ decodeWord w = .illegal .reservedOpcode) := by
  cases h : mnemonicOf (opField w) with
  | none => exact .inr (.inr ⟨mnemonicOf_eq_none.1 h, by simp [decodeWord, h]⟩)
  | some m =>
    by_cases hb : w &&& m.mask = m.fixedBits
    · exact .inl ⟨m, mnemonicOf_eq_some.1 h, hb, by simp [decodeWord, h, hb]⟩
    · exact .inr (.inl ⟨m, mnemonicOf_eq_some.1 h, hb, by simp [decodeWord, h, hb]⟩)

/-- The low byte of a row's match column is the row's OP, and its mask fixes the whole low byte. -/
theorem opField_fixedBits (m : Mnemonic) : opField m.fixedBits = m.op ∧ opField m.mask = 0xFF := by
  cases m <;> decide

/-- A word that matches a row has the row's OP. -/
theorem opField_of_match {w : Word32} {m : Mnemonic} (h : w &&& m.mask = m.fixedBits) : opField w = m.op := by
  have hm := opField_fixedBits m
  rw [← h] at hm
  have hw : opField (w &&& m.mask) = opField w &&& opField m.mask := BitVec.extractLsb'_and
  have hones : opField w &&& 0xFF = opField w := BitVec.and_allOnes
  rw [← hm.1, hw, hm.2, hones]

end Sys2Proof
end

