-- ==== Sys2Proof/Laws/State.lean ====
section
/-! SUPPORT. One lemma per field per update of the state, so that no proof unfolds a record update. -/

namespace Sys2Proof.Machine

section setCtrLe

variable (s : State) (v : Bool)

@[simp] theorem State.setCtrLe_ctrLe : (s.setCtrLe v).ctrLe = v := rfl
@[simp] theorem State.setCtrLe_err : (s.setCtrLe v).err = s.err := rfl
@[simp] theorem State.setCtrLe_rkValid : (s.setCtrLe v).rkValid = s.rkValid := rfl
@[simp] theorem State.setCtrLe_rk : (s.setCtrLe v).rk = s.rk := rfl
@[simp] theorem State.setCtrLe_gfA : (s.setCtrLe v).gfA = s.gfA := rfl
@[simp] theorem State.setCtrLe_gfB : (s.setCtrLe v).gfB = s.gfB := rfl
@[simp] theorem State.setCtrLe_gfP : (s.setCtrLe v).gfP = s.gfP := rfl
@[simp] theorem State.setCtrLe_key : (s.setCtrLe v).key = s.key := rfl
@[simp] theorem State.setCtrLe_iv : (s.setCtrLe v).iv = s.iv := rfl
@[simp] theorem State.setCtrLe_din : (s.setCtrLe v).din = s.din := rfl
@[simp] theorem State.setCtrLe_dout : (s.setCtrLe v).dout = s.dout := rfl
@[simp] theorem State.setCtrLe_st : (s.setCtrLe v).st = s.st := rfl
@[simp] theorem State.setCtrLe_pending : (s.setCtrLe v).pending = s.pending := rfl
@[simp] theorem State.setCtrLe_reads : (s.setCtrLe v).reads = s.reads := rfl
@[simp] theorem State.setCtrLe_resets : (s.setCtrLe v).resets = s.resets := rfl

end setCtrLe

section setErr

variable (s : State) (v : Byte)

@[simp] theorem State.setErr_ctrLe : (s.setErr v).ctrLe = s.ctrLe := rfl
@[simp] theorem State.setErr_err : (s.setErr v).err = v := rfl
@[simp] theorem State.setErr_rkValid : (s.setErr v).rkValid = s.rkValid := rfl
@[simp] theorem State.setErr_rk : (s.setErr v).rk = s.rk := rfl
@[simp] theorem State.setErr_gfA : (s.setErr v).gfA = s.gfA := rfl
@[simp] theorem State.setErr_gfB : (s.setErr v).gfB = s.gfB := rfl
@[simp] theorem State.setErr_gfP : (s.setErr v).gfP = s.gfP := rfl
@[simp] theorem State.setErr_key : (s.setErr v).key = s.key := rfl
@[simp] theorem State.setErr_iv : (s.setErr v).iv = s.iv := rfl
@[simp] theorem State.setErr_din : (s.setErr v).din = s.din := rfl
@[simp] theorem State.setErr_dout : (s.setErr v).dout = s.dout := rfl
@[simp] theorem State.setErr_st : (s.setErr v).st = s.st := rfl
@[simp] theorem State.setErr_pending : (s.setErr v).pending = s.pending := rfl
@[simp] theorem State.setErr_reads : (s.setErr v).reads = s.reads := rfl
@[simp] theorem State.setErr_resets : (s.setErr v).resets = s.resets := rfl

end setErr

section setRkValid

variable (s : State) (v : Bool)

@[simp] theorem State.setRkValid_ctrLe : (s.setRkValid v).ctrLe = s.ctrLe := rfl
@[simp] theorem State.setRkValid_err : (s.setRkValid v).err = s.err := rfl
@[simp] theorem State.setRkValid_rkValid : (s.setRkValid v).rkValid = v := rfl
@[simp] theorem State.setRkValid_rk : (s.setRkValid v).rk = s.rk := rfl
@[simp] theorem State.setRkValid_gfA : (s.setRkValid v).gfA = s.gfA := rfl
@[simp] theorem State.setRkValid_gfB : (s.setRkValid v).gfB = s.gfB := rfl
@[simp] theorem State.setRkValid_gfP : (s.setRkValid v).gfP = s.gfP := rfl
@[simp] theorem State.setRkValid_key : (s.setRkValid v).key = s.key := rfl
@[simp] theorem State.setRkValid_iv : (s.setRkValid v).iv = s.iv := rfl
@[simp] theorem State.setRkValid_din : (s.setRkValid v).din = s.din := rfl
@[simp] theorem State.setRkValid_dout : (s.setRkValid v).dout = s.dout := rfl
@[simp] theorem State.setRkValid_st : (s.setRkValid v).st = s.st := rfl
@[simp] theorem State.setRkValid_pending : (s.setRkValid v).pending = s.pending := rfl
@[simp] theorem State.setRkValid_reads : (s.setRkValid v).reads = s.reads := rfl
@[simp] theorem State.setRkValid_resets : (s.setRkValid v).resets = s.resets := rfl

end setRkValid

section setRk

variable (s : State) (v : Vector Block 11)

@[simp] theorem State.setRk_ctrLe : (s.setRk v).ctrLe = s.ctrLe := rfl
@[simp] theorem State.setRk_err : (s.setRk v).err = s.err := rfl
@[simp] theorem State.setRk_rkValid : (s.setRk v).rkValid = s.rkValid := rfl
@[simp] theorem State.setRk_rk : (s.setRk v).rk = v := rfl
@[simp] theorem State.setRk_gfA : (s.setRk v).gfA = s.gfA := rfl
@[simp] theorem State.setRk_gfB : (s.setRk v).gfB = s.gfB := rfl
@[simp] theorem State.setRk_gfP : (s.setRk v).gfP = s.gfP := rfl
@[simp] theorem State.setRk_key : (s.setRk v).key = s.key := rfl
@[simp] theorem State.setRk_iv : (s.setRk v).iv = s.iv := rfl
@[simp] theorem State.setRk_din : (s.setRk v).din = s.din := rfl
@[simp] theorem State.setRk_dout : (s.setRk v).dout = s.dout := rfl
@[simp] theorem State.setRk_st : (s.setRk v).st = s.st := rfl
@[simp] theorem State.setRk_pending : (s.setRk v).pending = s.pending := rfl
@[simp] theorem State.setRk_reads : (s.setRk v).reads = s.reads := rfl
@[simp] theorem State.setRk_resets : (s.setRk v).resets = s.resets := rfl

end setRk

section setGfA

variable (s : State) (v : Byte)

@[simp] theorem State.setGfA_ctrLe : (s.setGfA v).ctrLe = s.ctrLe := rfl
@[simp] theorem State.setGfA_err : (s.setGfA v).err = s.err := rfl
@[simp] theorem State.setGfA_rkValid : (s.setGfA v).rkValid = s.rkValid := rfl
@[simp] theorem State.setGfA_rk : (s.setGfA v).rk = s.rk := rfl
@[simp] theorem State.setGfA_gfA : (s.setGfA v).gfA = v := rfl
@[simp] theorem State.setGfA_gfB : (s.setGfA v).gfB = s.gfB := rfl
@[simp] theorem State.setGfA_gfP : (s.setGfA v).gfP = s.gfP := rfl
@[simp] theorem State.setGfA_key : (s.setGfA v).key = s.key := rfl
@[simp] theorem State.setGfA_iv : (s.setGfA v).iv = s.iv := rfl
@[simp] theorem State.setGfA_din : (s.setGfA v).din = s.din := rfl
@[simp] theorem State.setGfA_dout : (s.setGfA v).dout = s.dout := rfl
@[simp] theorem State.setGfA_st : (s.setGfA v).st = s.st := rfl
@[simp] theorem State.setGfA_pending : (s.setGfA v).pending = s.pending := rfl
@[simp] theorem State.setGfA_reads : (s.setGfA v).reads = s.reads := rfl
@[simp] theorem State.setGfA_resets : (s.setGfA v).resets = s.resets := rfl

end setGfA

section setGfB

variable (s : State) (v : Byte)

@[simp] theorem State.setGfB_ctrLe : (s.setGfB v).ctrLe = s.ctrLe := rfl
@[simp] theorem State.setGfB_err : (s.setGfB v).err = s.err := rfl
@[simp] theorem State.setGfB_rkValid : (s.setGfB v).rkValid = s.rkValid := rfl
@[simp] theorem State.setGfB_rk : (s.setGfB v).rk = s.rk := rfl
@[simp] theorem State.setGfB_gfA : (s.setGfB v).gfA = s.gfA := rfl
@[simp] theorem State.setGfB_gfB : (s.setGfB v).gfB = v := rfl
@[simp] theorem State.setGfB_gfP : (s.setGfB v).gfP = s.gfP := rfl
@[simp] theorem State.setGfB_key : (s.setGfB v).key = s.key := rfl
@[simp] theorem State.setGfB_iv : (s.setGfB v).iv = s.iv := rfl
@[simp] theorem State.setGfB_din : (s.setGfB v).din = s.din := rfl
@[simp] theorem State.setGfB_dout : (s.setGfB v).dout = s.dout := rfl
@[simp] theorem State.setGfB_st : (s.setGfB v).st = s.st := rfl
@[simp] theorem State.setGfB_pending : (s.setGfB v).pending = s.pending := rfl
@[simp] theorem State.setGfB_reads : (s.setGfB v).reads = s.reads := rfl
@[simp] theorem State.setGfB_resets : (s.setGfB v).resets = s.resets := rfl

end setGfB

section setGfP

variable (s : State) (v : Byte)

@[simp] theorem State.setGfP_ctrLe : (s.setGfP v).ctrLe = s.ctrLe := rfl
@[simp] theorem State.setGfP_err : (s.setGfP v).err = s.err := rfl
@[simp] theorem State.setGfP_rkValid : (s.setGfP v).rkValid = s.rkValid := rfl
@[simp] theorem State.setGfP_rk : (s.setGfP v).rk = s.rk := rfl
@[simp] theorem State.setGfP_gfA : (s.setGfP v).gfA = s.gfA := rfl
@[simp] theorem State.setGfP_gfB : (s.setGfP v).gfB = s.gfB := rfl
@[simp] theorem State.setGfP_gfP : (s.setGfP v).gfP = v := rfl
@[simp] theorem State.setGfP_key : (s.setGfP v).key = s.key := rfl
@[simp] theorem State.setGfP_iv : (s.setGfP v).iv = s.iv := rfl
@[simp] theorem State.setGfP_din : (s.setGfP v).din = s.din := rfl
@[simp] theorem State.setGfP_dout : (s.setGfP v).dout = s.dout := rfl
@[simp] theorem State.setGfP_st : (s.setGfP v).st = s.st := rfl
@[simp] theorem State.setGfP_pending : (s.setGfP v).pending = s.pending := rfl
@[simp] theorem State.setGfP_reads : (s.setGfP v).reads = s.reads := rfl
@[simp] theorem State.setGfP_resets : (s.setGfP v).resets = s.resets := rfl

end setGfP

section setKey

variable (s : State) (v : Block)

@[simp] theorem State.setKey_ctrLe : (s.setKey v).ctrLe = s.ctrLe := rfl
@[simp] theorem State.setKey_err : (s.setKey v).err = s.err := rfl
@[simp] theorem State.setKey_rkValid : (s.setKey v).rkValid = s.rkValid := rfl
@[simp] theorem State.setKey_rk : (s.setKey v).rk = s.rk := rfl
@[simp] theorem State.setKey_gfA : (s.setKey v).gfA = s.gfA := rfl
@[simp] theorem State.setKey_gfB : (s.setKey v).gfB = s.gfB := rfl
@[simp] theorem State.setKey_gfP : (s.setKey v).gfP = s.gfP := rfl
@[simp] theorem State.setKey_key : (s.setKey v).key = v := rfl
@[simp] theorem State.setKey_iv : (s.setKey v).iv = s.iv := rfl
@[simp] theorem State.setKey_din : (s.setKey v).din = s.din := rfl
@[simp] theorem State.setKey_dout : (s.setKey v).dout = s.dout := rfl
@[simp] theorem State.setKey_st : (s.setKey v).st = s.st := rfl
@[simp] theorem State.setKey_pending : (s.setKey v).pending = s.pending := rfl
@[simp] theorem State.setKey_reads : (s.setKey v).reads = s.reads := rfl
@[simp] theorem State.setKey_resets : (s.setKey v).resets = s.resets := rfl

end setKey

section setIv

variable (s : State) (v : Block)

@[simp] theorem State.setIv_ctrLe : (s.setIv v).ctrLe = s.ctrLe := rfl
@[simp] theorem State.setIv_err : (s.setIv v).err = s.err := rfl
@[simp] theorem State.setIv_rkValid : (s.setIv v).rkValid = s.rkValid := rfl
@[simp] theorem State.setIv_rk : (s.setIv v).rk = s.rk := rfl
@[simp] theorem State.setIv_gfA : (s.setIv v).gfA = s.gfA := rfl
@[simp] theorem State.setIv_gfB : (s.setIv v).gfB = s.gfB := rfl
@[simp] theorem State.setIv_gfP : (s.setIv v).gfP = s.gfP := rfl
@[simp] theorem State.setIv_key : (s.setIv v).key = s.key := rfl
@[simp] theorem State.setIv_iv : (s.setIv v).iv = v := rfl
@[simp] theorem State.setIv_din : (s.setIv v).din = s.din := rfl
@[simp] theorem State.setIv_dout : (s.setIv v).dout = s.dout := rfl
@[simp] theorem State.setIv_st : (s.setIv v).st = s.st := rfl
@[simp] theorem State.setIv_pending : (s.setIv v).pending = s.pending := rfl
@[simp] theorem State.setIv_reads : (s.setIv v).reads = s.reads := rfl
@[simp] theorem State.setIv_resets : (s.setIv v).resets = s.resets := rfl

end setIv

section setDin

variable (s : State) (v : Block)

@[simp] theorem State.setDin_ctrLe : (s.setDin v).ctrLe = s.ctrLe := rfl
@[simp] theorem State.setDin_err : (s.setDin v).err = s.err := rfl
@[simp] theorem State.setDin_rkValid : (s.setDin v).rkValid = s.rkValid := rfl
@[simp] theorem State.setDin_rk : (s.setDin v).rk = s.rk := rfl
@[simp] theorem State.setDin_gfA : (s.setDin v).gfA = s.gfA := rfl
@[simp] theorem State.setDin_gfB : (s.setDin v).gfB = s.gfB := rfl
@[simp] theorem State.setDin_gfP : (s.setDin v).gfP = s.gfP := rfl
@[simp] theorem State.setDin_key : (s.setDin v).key = s.key := rfl
@[simp] theorem State.setDin_iv : (s.setDin v).iv = s.iv := rfl
@[simp] theorem State.setDin_din : (s.setDin v).din = v := rfl
@[simp] theorem State.setDin_dout : (s.setDin v).dout = s.dout := rfl
@[simp] theorem State.setDin_st : (s.setDin v).st = s.st := rfl
@[simp] theorem State.setDin_pending : (s.setDin v).pending = s.pending := rfl
@[simp] theorem State.setDin_reads : (s.setDin v).reads = s.reads := rfl
@[simp] theorem State.setDin_resets : (s.setDin v).resets = s.resets := rfl

end setDin

section setDout

variable (s : State) (v : Block)

@[simp] theorem State.setDout_ctrLe : (s.setDout v).ctrLe = s.ctrLe := rfl
@[simp] theorem State.setDout_err : (s.setDout v).err = s.err := rfl
@[simp] theorem State.setDout_rkValid : (s.setDout v).rkValid = s.rkValid := rfl
@[simp] theorem State.setDout_rk : (s.setDout v).rk = s.rk := rfl
@[simp] theorem State.setDout_gfA : (s.setDout v).gfA = s.gfA := rfl
@[simp] theorem State.setDout_gfB : (s.setDout v).gfB = s.gfB := rfl
@[simp] theorem State.setDout_gfP : (s.setDout v).gfP = s.gfP := rfl
@[simp] theorem State.setDout_key : (s.setDout v).key = s.key := rfl
@[simp] theorem State.setDout_iv : (s.setDout v).iv = s.iv := rfl
@[simp] theorem State.setDout_din : (s.setDout v).din = s.din := rfl
@[simp] theorem State.setDout_dout : (s.setDout v).dout = v := rfl
@[simp] theorem State.setDout_st : (s.setDout v).st = s.st := rfl
@[simp] theorem State.setDout_pending : (s.setDout v).pending = s.pending := rfl
@[simp] theorem State.setDout_reads : (s.setDout v).reads = s.reads := rfl
@[simp] theorem State.setDout_resets : (s.setDout v).resets = s.resets := rfl

end setDout

section setSt

variable (s : State) (v : Block)

@[simp] theorem State.setSt_ctrLe : (s.setSt v).ctrLe = s.ctrLe := rfl
@[simp] theorem State.setSt_err : (s.setSt v).err = s.err := rfl
@[simp] theorem State.setSt_rkValid : (s.setSt v).rkValid = s.rkValid := rfl
@[simp] theorem State.setSt_rk : (s.setSt v).rk = s.rk := rfl
@[simp] theorem State.setSt_gfA : (s.setSt v).gfA = s.gfA := rfl
@[simp] theorem State.setSt_gfB : (s.setSt v).gfB = s.gfB := rfl
@[simp] theorem State.setSt_gfP : (s.setSt v).gfP = s.gfP := rfl
@[simp] theorem State.setSt_key : (s.setSt v).key = s.key := rfl
@[simp] theorem State.setSt_iv : (s.setSt v).iv = s.iv := rfl
@[simp] theorem State.setSt_din : (s.setSt v).din = s.din := rfl
@[simp] theorem State.setSt_dout : (s.setSt v).dout = s.dout := rfl
@[simp] theorem State.setSt_st : (s.setSt v).st = v := rfl
@[simp] theorem State.setSt_pending : (s.setSt v).pending = s.pending := rfl
@[simp] theorem State.setSt_reads : (s.setSt v).reads = s.reads := rfl
@[simp] theorem State.setSt_resets : (s.setSt v).resets = s.resets := rfl

end setSt

section setPending

variable (s : State) (v : List HostEvent)

@[simp] theorem State.setPending_ctrLe : (s.setPending v).ctrLe = s.ctrLe := rfl
@[simp] theorem State.setPending_err : (s.setPending v).err = s.err := rfl
@[simp] theorem State.setPending_rkValid : (s.setPending v).rkValid = s.rkValid := rfl
@[simp] theorem State.setPending_rk : (s.setPending v).rk = s.rk := rfl
@[simp] theorem State.setPending_gfA : (s.setPending v).gfA = s.gfA := rfl
@[simp] theorem State.setPending_gfB : (s.setPending v).gfB = s.gfB := rfl
@[simp] theorem State.setPending_gfP : (s.setPending v).gfP = s.gfP := rfl
@[simp] theorem State.setPending_key : (s.setPending v).key = s.key := rfl
@[simp] theorem State.setPending_iv : (s.setPending v).iv = s.iv := rfl
@[simp] theorem State.setPending_din : (s.setPending v).din = s.din := rfl
@[simp] theorem State.setPending_dout : (s.setPending v).dout = s.dout := rfl
@[simp] theorem State.setPending_st : (s.setPending v).st = s.st := rfl
@[simp] theorem State.setPending_pending : (s.setPending v).pending = v := rfl
@[simp] theorem State.setPending_reads : (s.setPending v).reads = s.reads := rfl
@[simp] theorem State.setPending_resets : (s.setPending v).resets = s.resets := rfl

end setPending

section recordRead

variable (s : State) (v : BusValue)

@[simp] theorem State.recordRead_ctrLe : (s.recordRead v).ctrLe = s.ctrLe := rfl
@[simp] theorem State.recordRead_err : (s.recordRead v).err = s.err := rfl
@[simp] theorem State.recordRead_rkValid : (s.recordRead v).rkValid = s.rkValid := rfl
@[simp] theorem State.recordRead_rk : (s.recordRead v).rk = s.rk := rfl
@[simp] theorem State.recordRead_gfA : (s.recordRead v).gfA = s.gfA := rfl
@[simp] theorem State.recordRead_gfB : (s.recordRead v).gfB = s.gfB := rfl
@[simp] theorem State.recordRead_gfP : (s.recordRead v).gfP = s.gfP := rfl
@[simp] theorem State.recordRead_key : (s.recordRead v).key = s.key := rfl
@[simp] theorem State.recordRead_iv : (s.recordRead v).iv = s.iv := rfl
@[simp] theorem State.recordRead_din : (s.recordRead v).din = s.din := rfl
@[simp] theorem State.recordRead_dout : (s.recordRead v).dout = s.dout := rfl
@[simp] theorem State.recordRead_st : (s.recordRead v).st = s.st := rfl
@[simp] theorem State.recordRead_pending : (s.recordRead v).pending = s.pending := rfl
@[simp] theorem State.recordRead_reads : (s.recordRead v).reads = s.reads ++ [v] := rfl
@[simp] theorem State.recordRead_resets : (s.recordRead v).resets = s.resets := rfl

end recordRead

/-- Two states with equal fields are equal; a proof about the next state closes field by field. -/
theorem State.ext_fields {s t : State} (h1 : s.ctrLe = t.ctrLe) (h2 : s.err = t.err) (h3 : s.rkValid = t.rkValid)
    (h4 : s.rk = t.rk) (h5 : s.gfA = t.gfA) (h6 : s.gfB = t.gfB) (h7 : s.gfP = t.gfP) (h8 : s.key = t.key)
    (h9 : s.iv = t.iv) (h10 : s.din = t.din) (h11 : s.dout = t.dout) (h12 : s.st = t.st)
    (h13 : s.pending = t.pending) (h14 : s.reads = t.reads) (h15 : s.resets = t.resets) : s = t := by
  cases s
  cases t
  simp_all

end Sys2Proof.Machine
end

