-- ==== Sys2Proof/Laws/Ops.lean ====
section
/-! SUPPORT. What each shared operation can do, said once. -/

namespace Sys2Proof.Machine

@[simp] theorem errCode_ok : errCode .ok = 0x00 := rfl
@[simp] theorem errCode_illegal : errCode .illegal = 0x01 := rfl
@[simp] theorem errCode_ridx : errCode .ridx = 0x02 := rfl
@[simp] theorem errCode_length : errCode .length = 0x03 := rfl
@[simp] theorem errCode_noKey : errCode .noKey = 0x04 := rfl

/-- No result code is above 0x04 (60_exceptions.md R600). -/
theorem errCode_le_four (e : CmdStatus) : (errCode e).toNat ≤ 4 := by
  cases e <;> decide

/-- A failed command changes STATUS.ERR and nothing else (60_exceptions.md R601). -/
theorem raiseCmdError_eq (e : CmdStatus) (s : State) : raiseCmdError e s = { s with err := errCode e } := rfl

theorem succeed_eq (s : State) : succeed s = { s with err := 0x00 } := rfl

theorem takeReset_eq (s : State) : takeReset s = State.afterReset (s.resets + 1) s.pending s.reads := rfl

/-- A command without an operand and without a need of round keys always succeeds (45_system.md R560). -/
theorem always_eq (effect : State → State) (s : State) : always effect s = { effect s with err := 0x00 } := rfl

/-- A write to a KEY byte stores it and clears RK_VALID (10_state.md R111). -/
theorem writeKeyByte_eq (i : Fin 16) (d : Byte) (s : State) :
    writeKeyByte i d s = { s with key := s.key.setByte i d, rkValid := false } := rfl

/-- The three answers of a command that uses the round keys, in the order of its checks (60_exceptions.md R602). -/
theorem withSchedule_cases (fieldOk : Bool) (e : CmdStatus) (effect : State → State) (s : State) :
    (fieldOk = false ∧ withSchedule fieldOk e effect s = raiseCmdError e s) ∨
    (fieldOk = true ∧ s.rkValid = false ∧ withSchedule fieldOk e effect s = raiseCmdError .noKey s) ∨
    (fieldOk = true ∧ s.rkValid = true ∧ withSchedule fieldOk e effect s = succeed (effect s)) := by
  cases fieldOk <;> cases h : s.rkValid <;> simp [withSchedule, h]

theorem withSchedule_fieldError {fieldOk : Bool} (h : fieldOk = false) (e : CmdStatus) (effect : State → State) (s : State) :
    withSchedule fieldOk e effect s = raiseCmdError e s := by
  simp [withSchedule, h]

theorem withSchedule_noKey {fieldOk : Bool} (h : fieldOk = true) (e : CmdStatus) (effect : State → State) {s : State}
    (hv : s.rkValid = false) : withSchedule fieldOk e effect s = raiseCmdError .noKey s := by
  simp [withSchedule, h, hv]

theorem withSchedule_success {fieldOk : Bool} (h : fieldOk = true) (e : CmdStatus) (effect : State → State) {s : State}
    (hv : s.rkValid = true) : withSchedule fieldOk e effect s = succeed (effect s) := by
  simp [withSchedule, h, hv]

/-- A legal index reads its entry of the round-key file. -/
theorem roundKey_eq_getElem (rk : Vector Block 11) (ridx : Nat) (h : ridx < 11) : roundKey rk ridx = rk[ridx] := by
  simp [roundKey, Vector.get_eq_getElem, Nat.mod_eq_of_lt h]

end Sys2Proof.Machine
end

