-- ==== Sys2Proof/Laws/Exec.lean ====
section
/-! SUPPORT. Commands and bus accesses always answer a next state, or the bus error; what a step can do, said once. -/

namespace Sys2Proof.Machine

/-- Every command completes: no meaning faults or refuses (60_exceptions.md R606, R607). -/
theorem exec_next (i : Instr) (s : State) : ∃ t, exec i s = .next t := by
  cases i <;> exact ⟨_, rfl⟩

/-- Every command word completes, an illegal one with ERR_ILLEGAL (45_system.md R560). -/
theorem runCommand_next (w : Word32) (s : State) : ∃ t, runCommand w s = .next t := by
  unfold runCommand
  split
  · exact exec_next _ _
  · exact ⟨_, rfl⟩

theorem runCommand_command {w : Word32} {i : Instr} (h : decodeWord w = .command i) (s : State) :
    runCommand w s = exec i s := by
  simp [runCommand, h]

theorem runCommand_illegal {w : Word32} {why : Illegal} (h : decodeWord w = .illegal why) (s : State) :
    runCommand w s = .next (raiseCmdError .illegal s) := by
  simp [runCommand, h]

/-- An admitted access answers a next state, a refused one the bus error (20_memory.md R209). -/
theorem hostAccess_cases (a : Access) (s : State) :
    (admitted a = false ∧ hostAccess a s = .fault .busError) ∨
    (admitted a = true ∧ ∃ n o, a = .read n o ∧ hostAccess a s = .next (s.recordRead (busRead s n o))) ∨
    (admitted a = true ∧ ∃ n o v, a = .write n o v ∧ windowByte o = .command ∧ hostAccess a s = runCommand v s) ∨
    (admitted a = true ∧ ∃ n o v, a = .write n o v ∧ windowByte o ≠ .command ∧
      hostAccess a s = .next (storeLanes n o v s)) := by
  cases h : admitted a with
  | false => exact .inl ⟨rfl, by simp [hostAccess, h]⟩
  | true =>
    refine .inr ?_
    cases a with
    | read n o => exact .inl ⟨rfl, n, o, rfl, by simp [hostAccess, h]⟩
    | write n o v =>
      refine .inr ?_
      by_cases hc : windowByte o = .command
      · exact .inl ⟨rfl, n, o, v, rfl, hc, by simp [hostAccess, h, busWrite, hc]⟩
      · exact .inr ⟨rfl, n, o, v, rfl, hc, by simp [hostAccess, h, busWrite, hc]⟩

/-- An admitted write has width 1 or 4, and one to CMD is the 4-byte write at 0x08 (20_memory.md R203, R206, R209). -/
theorem admitted_width {n : Nat} {o : BitVec 8} (h : widthAdmitted n o = true) : n = 1 ∨ (n = 4 ∧ o.toNat % 4 = 0) := by
  simpa [widthAdmitted] using h

/-- The offsets of CMD (20_memory.md R201). -/
theorem windowByte_command (o : BitVec 8) : windowByte o = .command ↔ 0x08 ≤ o.toNat ∧ o.toNat ≤ 0x0B := by
  revert o
  decide +kernel

end Sys2Proof.Machine
end

