-- ==== Sys2Proof/Laws/Gf256.lean ====
section
/-! SUPPORT. Small lemmas of GF(2^8) arithmetic: multiplying by 2 and 3, and linearity in the first operand. -/

namespace Sys2Proof.Machine

theorem xor_left_comm (a b c : Byte) : a ^^^ (b ^^^ c) = b ^^^ (a ^^^ c) := by
  rw [← BitVec.xor_assoc, BitVec.xor_comm a b, BitVec.xor_assoc]

/-- Multiplying by 2 is linear. -/
theorem xtime_xor (a b : Byte) : xtime (a ^^^ b) = xtime a ^^^ xtime b := by
  unfold xtime
  simp only [BitVec.getLsbD_xor, BitVec.shiftLeft_xor_distrib]
  cases a.getLsbD 7 <;> cases b.getLsbD 7 <;> simp [BitVec.xor_assoc, BitVec.xor_comm, xor_left_comm]

@[simp] theorem xtime_zero : xtime 0x00 = 0x00 := by decide

theorem gmulTurn_xor (b p q x y : Byte) (i : Nat) :
    gmulTurn b (p ^^^ q, x ^^^ y) i = ((gmulTurn b (p, x) i).1 ^^^ (gmulTurn b (q, y) i).1,
      (gmulTurn b (p, x) i).2 ^^^ (gmulTurn b (q, y) i).2) := by
  unfold gmulTurn
  cases b.getLsbD i <;> simp [xtime_xor, BitVec.xor_assoc, xor_left_comm]

theorem foldl_gmulTurn_xor (b : Byte) (l : List Nat) (p q x y : Byte) :
    (l.foldl (gmulTurn b) (p ^^^ q, x ^^^ y)).1 =
      (l.foldl (gmulTurn b) (p, x)).1 ^^^ (l.foldl (gmulTurn b) (q, y)).1 := by
  induction l generalizing p q x y with
  | nil => rfl
  | cons i l ih =>
    simp only [List.foldl_cons, gmulTurn_xor]
    exact ih _ _ _ _

/-- Multiplication is linear in its first operand. -/
theorem gmul_xor_left (x y b : Byte) : gmul (x ^^^ y) b = gmul x b ^^^ gmul y b := by
  have h := foldl_gmulTurn_xor b [0, 1, 2, 3, 4, 5, 6, 7] 0x00 0x00 x y
  simpa [gmul] using h

end Sys2Proof.Machine
end

