-- ==== Sys2Proof/Laws/PerInstr.lean ====
section
/-! SUPPORT. Facts about every command as syntax, one lemma per constructor: the fixed bits of a command's word are those of
its row of the opcode map (30_encoding.md R305). -/

namespace Sys2Proof.Laws.FixedBits

/-- The word of a well-formed command matches the command's own row of the opcode map. -/
def Statement (i : Instr) : Prop := i.wf = true → encode i &&& i.mnemonic.mask = i.mnemonic.fixedBits

theorem ridx_row (op mask : Word32) (h : ∀ r : Fin 16, (op ||| (BitVec.ofNat 32 r.val <<< 8) ||| 0) &&& mask = op) (ridx : Nat)
    (hr : ridxFits ridx = true) : (op ||| (BitVec.ofNat 32 ridx <<< 8) ||| 0) &&& mask = op :=
  h ⟨ridx, by simpa [ridxFits] using hr⟩

theorem len_row (op mask : Word32) (h : ∀ n : Fin 32, (op ||| 0 ||| (BitVec.ofNat 32 n.val <<< 16)) &&& mask = op) (len : Nat)
    (hl : lenFits len = true) : (op ||| 0 ||| (BitVec.ofNat 32 len <<< 16)) &&& mask = op :=
  h ⟨len, by simpa [lenFits] using hl⟩

theorem nop : Statement .nop := fun _ => by decide
theorem keyexp : Statement .keyexp := fun _ => by decide
theorem rkread (ridx : Nat) : Statement (.rkread ridx) := ridx_row 0x02 0xFFFFF0FF (by decide) ridx
theorem ecbEnc (len : Nat) : Statement (.ecbEnc len) := len_row 0x10 0xFFE0FFFF (by decide) len
theorem ecbDec (len : Nat) : Statement (.ecbDec len) := len_row 0x11 0xFFE0FFFF (by decide) len
theorem cbcEnc (len : Nat) : Statement (.cbcEnc len) := len_row 0x12 0xFFE0FFFF (by decide) len
theorem cbcDec (len : Nat) : Statement (.cbcDec len) := len_row 0x13 0xFFE0FFFF (by decide) len
theorem ctrXcrypt (len : Nat) : Statement (.ctrXcrypt len) := len_row 0x14 0xFFE0FFFF (by decide) len
theorem subbytes : Statement .subbytes := fun _ => by decide
theorem invSubbytes : Statement .invSubbytes := fun _ => by decide
theorem shiftrows : Statement .shiftrows := fun _ => by decide
theorem invShiftrows : Statement .invShiftrows := fun _ => by decide
theorem mixcolumns : Statement .mixcolumns := fun _ => by decide
theorem invMixcolumns : Statement .invMixcolumns := fun _ => by decide
theorem addroundkey (ridx : Nat) : Statement (.addroundkey ridx) := ridx_row 0x26 0xFFFFF0FF (by decide) ridx
theorem gfmul : Statement .gfmul := fun _ => by decide

end Sys2Proof.Laws.FixedBits
end

