-- ==== Sys2Proof/Laws/Step.lean ====
section
/-! SUPPORT. What a step can do, said once, and the byte writes of a bus write unrolled. -/

namespace Sys2Proof.Machine

/-- A 1-byte write is one byte write (20_memory.md R206). -/
theorem storeLanes_one (o : BitVec 8) (v : Word32) (s : State) : storeLanes 1 o v s = writeByte o (lane v 0) s := by
  simp [storeLanes, List.range, List.range.loop]

/-- A 4-byte write is four byte writes, lane 0 first (20_memory.md R206). -/
theorem storeLanes_four (o : BitVec 8) (v : Word32) (s : State) :
    storeLanes 4 o v s =
      writeByte (o + 3) (lane v 3) (writeByte (o + 2) (lane v 2) (writeByte (o + 1) (lane v 1) (writeByte o (lane v 0) s))) := by
  simp [storeLanes, List.range, List.range.loop]

/-- Everything a byte write leaves as it was, and its effect on KEY and RK_VALID (20_memory.md R208; 10_state.md R111). -/
theorem writeByte_keeps (x : BitVec 8) (d : Byte) (s : State) :
    (writeByte x d s).err = s.err ∧ (writeByte x d s).rk = s.rk ∧ (writeByte x d s).gfP = s.gfP ∧
    (writeByte x d s).dout = s.dout ∧ (writeByte x d s).pending = s.pending ∧ (writeByte x d s).reads = s.reads ∧
    (writeByte x d s).resets = s.resets ∧
    (((writeByte x d s).key = s.key ∧ (writeByte x d s).rkValid = s.rkValid) ∨ (writeByte x d s).rkValid = false) := by
  unfold writeByte writeKeyByte
  cases windowByte x <;> simp

/-- Everything a step that answers a next state can have done (45_system.md R562; 70_reset_and_hazards.md R700). -/
theorem step_cases {s t : State} (h : step s = .next t) :
    (∃ rest, s.pending = .reset :: rest ∧ t = State.afterReset (s.resets + 1) rest s.reads) ∨
    (∃ n o rest, s.pending = .access (.read n o) :: rest ∧ admitted (.read n o) = true ∧
      t = (s.setPending rest).recordRead (busRead (s.setPending rest) n o)) ∨
    (∃ n o v rest, s.pending = .access (.write n o v) :: rest ∧ admitted (.write n o v) = true ∧ windowByte o = .command ∧
      runCommand v (s.setPending rest) = .next t) ∨
    (∃ n o v rest, s.pending = .access (.write n o v) :: rest ∧ admitted (.write n o v) = true ∧ windowByte o ≠ .command ∧
      t = storeLanes n o v (s.setPending rest)) := by
  unfold step hostStep at h
  cases hp : s.pending with
  | nil => simp [hp] at h
  | cons e rest =>
    simp only [hp] at h
    cases e with
    | reset =>
      simp only [hostEvent, Host.Outcome.next.injEq] at h
      exact .inl ⟨rest, rfl, h.symm⟩
    | access a =>
      refine .inr ?_
      simp only [hostEvent] at h
      rcases hostAccess_cases a (s.setPending rest) with
        ⟨_, ha⟩ | ⟨hadm, n, o, rfl, ha⟩ | ⟨hadm, n, o, v, rfl, hc, ha⟩ | ⟨hadm, n, o, v, rfl, hc, ha⟩
      · simp [ha] at h
      · rw [ha, Host.Outcome.next.injEq] at h
        exact .inl ⟨n, o, rest, rfl, hadm, h.symm⟩
      · rw [ha] at h
        exact .inr (.inl ⟨n, o, v, rest, rfl, hadm, hc, h⟩)
      · rw [ha, Host.Outcome.next.injEq] at h
        exact .inr (.inr ⟨n, o, v, rest, rfl, hadm, hc, h.symm⟩)

end Sys2Proof.Machine
end

