-- ==== Sys2Proof/Machine/HostText.lean ====
section
/-! DEFINITION. The text of a host program: one line of the assembler syntax of 30_encoding.md R309 to R312 read into a
`HostLine`, and a whole text assembled into its bus accesses. Where R309 leaves the spelling of blanks and the range of a
written value open, log entry 13 says what is read. -/

namespace Sys2Proof.Machine

/-- The lexical units of a line. -/
inductive Token where
  /-- a run of letters, digits and underscores: a keyword, a register name, a mnemonic, a number or a hex string -/
  | word (w : List Char)
  | comma
  | plus
  | equals
  deriving DecidableEq, Repr

/-- "A comment starts with `--` or `;` and runs to the end of the line" (30_encoding.md R309). -/
def stripComment : List Char → List Char
  | [] => []
  | c :: cs => if c = ';' ∨ (c = '-' ∧ cs.head? = some '-') then [] else c :: stripComment cs

/-- The part of a line before its annotation `-> <value>`, and whether there is one (30_encoding.md R309). -/
def splitAnnotation : List Char → List Char × Bool
  | [] => ([], false)
  | c :: cs =>
    if c = '-' ∧ cs.head? = some '>' then ([], true)
    else (c :: (splitAnnotation cs).1, (splitAnnotation cs).2)

/-- A letter, a digit or an underscore. -/
def isWordChar (c : Char) : Bool :=
  let n := c.toNat
  (0x30 ≤ n && n ≤ 0x39) || (0x41 ≤ n && n ≤ 0x5A) || (0x61 ≤ n && n ≤ 0x7A) || n == 0x5F

/-- A blank between the parts of a line. -/
def isBlank (c : Char) : Bool := c == ' ' || c == '\t' || c == '\r'

/-- The word read so far, last character first, as a token. -/
def closeWord (acc : List Char) (rest : List Token) : List Token :=
  if acc.isEmpty then rest else .word acc.reverse :: rest

/-- The tokens of a line; none for a character that has no place in one. -/
def tokens (acc : List Char) : List Char → Option (List Token)
  | [] => some (closeWord acc [])
  | c :: cs =>
    if isWordChar c then tokens (c :: acc) cs
    else if isBlank c then (tokens [] cs).map (closeWord acc)
    else if c = ',' then (tokens [] cs).map fun ts => closeWord acc (.comma :: ts)
    else if c = '+' then (tokens [] cs).map fun ts => closeWord acc (.plus :: ts)
    else if c = '=' then (tokens [] cs).map fun ts => closeWord acc (.equals :: ts)
    else none

/-- The value of a digit, decimal or hex. -/
def digitValue (c : Char) : Option Nat :=
  let n := c.toNat
  if 0x30 ≤ n ∧ n ≤ 0x39 then some (n - 0x30)
  else if 0x41 ≤ n ∧ n ≤ 0x46 then some (n - 0x41 + 10)
  else if 0x61 ≤ n ∧ n ≤ 0x66 then some (n - 0x61 + 10)
  else none

/-- The number that digits in a base stand for, most significant first. -/
def digitsValue (base acc : Nat) : List Char → Option Nat
  | [] => some acc
  | c :: cs =>
    match digitValue c with
    | some d => if d < base then digitsValue base (acc * base + d) cs else none
    | none => none

/-- A number, `0x..` or decimal (30_encoding.md R309). -/
def numberOf : List Char → Option Nat
  | [] => none
  | ['0', 'x'] => none
  | '0' :: 'x' :: ds => digitsValue 16 0 ds
  | ds => digitsValue 10 0 ds

/-- A number below a bound; a number that does not fit is refused (log entry 13). -/
def numberBelow (bound : Nat) (w : List Char) : Option Nat :=
  (numberOf w).bind fun n => if n < bound then some n else none

/-- 32 hex digits, bytes 0..15 left to right (30_encoding.md R311). -/
def blockOf (w : List Char) : Option Block :=
  if w.length = 32 then (digitsValue 16 0 w).map fun n => Block.ofHex (BitVec.ofNat 128 n) else none

/-- The register names (20_memory.md R201). -/
def regOf : List Char → Option RegName
  | ['C', 'T', 'R', 'L'] => some .ctrl
  | ['S', 'T', 'A', 'T', 'U', 'S'] => some .status
  | ['C', 'M', 'D'] => some .cmd
  | ['G', 'F'] => some .gf
  | ['K', 'E', 'Y'] => some .key
  | ['I', 'V'] => some .iv
  | ['D', 'I', 'N'] => some .din
  | ['D', 'O', 'U', 'T'] => some .dout
  | ['S', 'T'] => some .st
  | _ => none

/-- The mnemonics, letter for letter (30_encoding.md R305). -/
def mnemonicNamed : List Char → Option Mnemonic
  | ['N', 'O', 'P'] => some .nop
  | ['K', 'E', 'Y', 'E', 'X', 'P'] => some .keyexp
  | ['R', 'K', 'R', 'E', 'A', 'D'] => some .rkread
  | ['E', 'C', 'B', '_', 'E', 'N', 'C'] => some .ecbEnc
  | ['E', 'C', 'B', '_', 'D', 'E', 'C'] => some .ecbDec
  | ['C', 'B', 'C', '_', 'E', 'N', 'C'] => some .cbcEnc
  | ['C', 'B', 'C', '_', 'D', 'E', 'C'] => some .cbcDec
  | ['C', 'T', 'R', '_', 'X', 'C', 'R', 'Y', 'P', 'T'] => some .ctrXcrypt
  | ['S', 'U', 'B', 'B', 'Y', 'T', 'E', 'S'] => some .subbytes
  | ['I', 'N', 'V', '_', 'S', 'U', 'B', 'B', 'Y', 'T', 'E', 'S'] => some .invSubbytes
  | ['S', 'H', 'I', 'F', 'T', 'R', 'O', 'W', 'S'] => some .shiftrows
  | ['I', 'N', 'V', '_', 'S', 'H', 'I', 'F', 'T', 'R', 'O', 'W', 'S'] => some .invShiftrows
  | ['M', 'I', 'X', 'C', 'O', 'L', 'U', 'M', 'N', 'S'] => some .mixcolumns
  | ['I', 'N', 'V', '_', 'M', 'I', 'X', 'C', 'O', 'L', 'U', 'M', 'N', 'S'] => some .invMixcolumns
  | ['A', 'D', 'D', 'R', 'O', 'U', 'N', 'D', 'K', 'E', 'Y'] => some .addroundkey
  | ['G', 'F', 'M', 'U', 'L'] => some .gfmul
  | _ => none

/-- An offset at the head of the tokens, a number or a register name, optionally plus a number, and the tokens after it
(30_encoding.md R309). R309 leaves open whether "optionally plus a number" also follows a number: here it follows a register name
only, and `0x10+4` is refused (log entry 13; DESIGN CHOICE). -/
def offsetAt : List Token → Option (HostOffset × List Token)
  | .word w :: .plus :: .word p :: rest =>
    (regOf w).bind fun r => (numberOf p).map fun n => (.register r n, rest)
  | .word w :: rest =>
    match regOf w with
    | some r => some (.register r 0, rest)
    | none => (numberOf w).map fun n => (.number n, rest)
  | _ => none

/-- The operands of a `cmd` line, each at most once (30_encoding.md R310). -/
def operandsOf (ridx len : Option Nat) : List Token → Option (Option Nat × Option Nat)
  | [] => some (ridx, len)
  | .word ['r', 'i', 'd', 'x'] :: .equals :: .word n :: rest =>
    if ridx.isSome then none
    else
      match numberOf n with
      | some v => operandsOf (some v) len rest
      | none => none
  | .word ['l', 'e', 'n'] :: .equals :: .word n :: rest =>
    if len.isSome then none
    else
      match numberOf n with
      | some v => operandsOf ridx (some v) rest
      | none => none
  | _ => none

/-- A read line, which may be annotated (30_encoding.md R309, R311). -/
def readLine : List Token → Option HostLine
  | .word ['r', 'd', '8'] :: ts =>
    (offsetAt ts).bind fun o => if o.2.isEmpty then some (.rd8 o.1) else none
  | .word ['r', 'd', '3', '2'] :: ts =>
    (offsetAt ts).bind fun o => if o.2.isEmpty then some (.rd32 o.1) else none
  | [.word ['r', 'd', '1', '2', '8'], .word r] => (regOf r).map .rd128
  | _ => none

/-- A write line of one value: the offset, a comma and the value below `bound`. -/
def writeOperands (bound : Nat) (ts : List Token) : Option (HostOffset × Nat) :=
  (offsetAt ts).bind fun o =>
    match o.2 with
    | [.comma, .word v] => (numberBelow bound v).map fun n => (o.1, n)
    | _ => none

/-- A write line, a command or `setkey` (30_encoding.md R309 to R312). -/
def writeLine : List Token → Option HostLine
  | .word ['w', 'r', '8'] :: ts => (writeOperands 0x100 ts).map fun p => .wr8 p.1 (BitVec.ofNat 8 p.2)
  | .word ['w', 'r', '3', '2'] :: ts => (writeOperands 0x100000000 ts).map fun p => .wr32 p.1 (BitVec.ofNat 32 p.2)
  | [.word ['w', 'r', '1', '2', '8'], .word r, .comma, .word b] =>
    (regOf r).bind fun reg => (blockOf b).map fun value => .wr128 reg value
  | [.word ['s', 'e', 't', 'k', 'e', 'y'], .word b] => (blockOf b).map .setkey
  | .word ['c', 'm', 'd'] :: .word m :: ts =>
    (mnemonicNamed m).bind fun mn => (operandsOf none none ts).map fun p => .cmd mn p.1 p.2
  | _ => none

/-- One line of a program text: no line at all if it is blank or only a comment, none if the assembler refuses it
(30_encoding.md R309). -/
def parseLine (text : List Char) : Option (List HostLine) :=
  let (body, annotated) := splitAnnotation (stripComment text)
  match tokens [] body with
  | none => none
  | some [] => if annotated then none else some []
  | some ts =>
    match readLine ts, writeLine ts with
    | some l, _ => some [l]
    | none, some l => if annotated then none else some [l]
    | none, none => none

/-- The lines of a text, first to last. -/
def linesOf (acc : List Char) : List Char → List (List Char)
  | [] => [acc.reverse]
  | c :: cs => if c = '\n' then acc.reverse :: linesOf [] cs else linesOf (c :: acc) cs

/-- The bus accesses of a program text, one line after the other; none if the assembler refuses a line
(30_encoding.md R309). -/
def assembleText (text : List Char) : Option (List Access) :=
  ((linesOf [] text).mapM parseLine).bind fun ls => assemble ls.flatten

end Sys2Proof.Machine
end

