-- ==== Sys2Proof/Tests/Slice0.lean ====
section
/-! SUPPORT. The model's own tests. Every expected value stands in the spec (95_test_vectors.md, named at each test) or is worked
out from a rule named there. The theorems `test_witness_...` show states and operands that meet the hypotheses of the statements,
at the boundary values of their clauses. -/

open Sys2Proof Sys2Proof.Machine

namespace Sys2Proof.Tests

/-- One field of the next state; none where there is no next state. -/
def after {α : Type} (r : Result) (f : State → α) : Option α :=
  match r with
  | .next t => some (f t)
  | .fault _ => none
  | .refused _ => none

/-- The fault a step answers. -/
def faultOf (r : Result) : Option Fault :=
  match r with
  | .next _ => none
  | .fault e => some e
  | .refused _ => none

/-- One step from `s` with a 4-byte write of the command word `w` to CMD as the host's next access. -/
def runWord {α : Type} (w : Nat) (s : State) (f : State → α) : Option α := after (step (s.withFetchWord 32 w)) f

/-- The state after `setkey` from reset. -/
def keyed (key : Block) : State := { State.reset with key := key, rk := keyExpansion key, rkValid := true }

/-- The key of FIPS-197 A.1, used by most vectors (95_test_vectors.md V2.10, V3.3, V6.1). -/
def keyA1 : Block := Block.ofHex 0x2b7e151628aed2a6abf7158809cf4f3c

/-- "YELLOW SUBMARINE" (95_test_vectors.md V6.1, P3). -/
def keyYellow : Block := Block.ofHex 0x59454c4c4f57205355424d4152494e45

/-! ## Well-formedness: each check refuses a term -/

theorem test_wf_refuses_ridx_16 : (Instr.rkread 16).wf = false ∧ (Instr.addroundkey 16).wf = false := by decide
theorem test_wf_refuses_len_32 :
    [Instr.ecbEnc 32, .ecbDec 32, .cbcEnc 32, .cbcDec 32, .ctrXcrypt 32].all (fun i => i.wf = false) = true := by decide
theorem test_wf_accepts_full_fields :
    [Instr.rkread 15, .addroundkey 15, .ecbEnc 31, .ecbDec 31, .cbcEnc 31, .cbcDec 31, .ctrXcrypt 31, .nop].all Instr.wf = true := by
  decide

/-! ## Decoding: one word per command, written out from the patterns of 30_encoding.md R305 -/

theorem test_decode_nop : decodeWord 0b00000000000000000000000000000000 = .command .nop := by decide
theorem test_decode_keyexp : decodeWord 0b00000000000000000000000000000001 = .command .keyexp := by decide
theorem test_decode_rkread : decodeWord 0b00000000000000000000101000000010 = .command (.rkread 10) := by decide
theorem test_decode_ecbEnc : decodeWord 0b00000000000100000000000000010000 = .command (.ecbEnc 16) := by decide
theorem test_decode_ecbDec : decodeWord 0b00000000000100000000000000010001 = .command (.ecbDec 16) := by decide
theorem test_decode_cbcEnc : decodeWord 0b00000000000011110000000000010010 = .command (.cbcEnc 15) := by decide
theorem test_decode_cbcDec : decodeWord 0b00000000000100000000000000010011 = .command (.cbcDec 16) := by decide
theorem test_decode_ctrXcrypt : decodeWord 0b00000000000111110000000000010100 = .command (.ctrXcrypt 31) := by decide
theorem test_decode_subbytes : decodeWord 0b00000000000000000000000000100000 = .command .subbytes := by decide
theorem test_decode_invSubbytes : decodeWord 0b00000000000000000000000000100001 = .command .invSubbytes := by decide
theorem test_decode_shiftrows : decodeWord 0b00000000000000000000000000100010 = .command .shiftrows := by decide
theorem test_decode_invShiftrows : decodeWord 0b00000000000000000000000000100011 = .command .invShiftrows := by decide
theorem test_decode_mixcolumns : decodeWord 0b00000000000000000000000000100100 = .command .mixcolumns := by decide
theorem test_decode_invMixcolumns : decodeWord 0b00000000000000000000000000100101 = .command .invMixcolumns := by decide
theorem test_decode_addroundkey : decodeWord 0b00000000000000000000101100100110 = .command (.addroundkey 11) := by decide
theorem test_decode_gfmul : decodeWord 0b00000000000000000000000000110000 = .command .gfmul := by decide

/-- The illegal words of 95_test_vectors.md V7.1. -/
theorem test_decode_illegal :
    [0x00000100, 0x80000000, 0x00010001, 0x00100110, 0x00101014].all (fun w => decodeWord w = .illegal .reservedBit) = true ∧
    [0x00000003, 0x000000FF].all (fun w => decodeWord w = .illegal .reservedOpcode) = true := by decide

/-- The bytes of 0x00000A26 in the bus's lanes (20_memory.md R205), and a word cut short. -/
theorem test_decode_bytes :
    decodeBytes [0x26, 0x0A, 0x00, 0x00, 0x55] = (.command (.addroundkey 10), [0x55]) ∧
    (decodeBytes [0x26, 0x0A, 0x00]).1 = .illegal .truncated := by decide

/-- The table's words (spec/opcode_table.json), and a reserved one. -/
theorem test_decodeTableWord :
    decodeTableWord 32 0x00000B26 = some (.addroundkey 11) ∧ decodeTableWord 32 0x00000003 = none := by decide

/-! ## One step per command, the words and values of 95_test_vectors.md -/

/-- V9.2, V7.2 -/
theorem test_nop_clears_err : runWord 0x00000000 { State.reset with err := 0x03, gfA := 0x57 } (fun t => (t.err, t.gfA)) =
    some (0x00, 0x57) := by decide +kernel

/-- V3.3, key A.1 -/
theorem test_keyexp_a1 : runWord 0x00000001 { State.reset with key := keyA1 } (fun t => (t.rk.get 1, t.rk.get 10)) =
    some (Block.ofHex 0xa0fafe1788542cb123a339392a6c7605, Block.ofHex 0xd014f9a8c9ee2589e13f0cc8b6630ca6) := by decide +kernel

/-- V3.4: the reset KEY is a key, and STATUS is 0x00000100 after it. -/
theorem test_keyexp_reset_key : runWord 0x00000001 State.reset (fun t => (t.rk.get 10, t.rkValid, t.err)) =
    some (Block.ofHex 0xb4ef5bcb3e92e21123e951cf6f8f188e, true, 0x00) := by decide +kernel

/-- V3.3, round key 10 of key A.1 -/
theorem test_rkread_ten : runWord 0x00000A02 (keyed keyA1) (fun t => (t.st, t.err)) =
    some (Block.ofHex 0xd014f9a8c9ee2589e13f0cc8b6630ca6, 0x00) := by decide +kernel

/-- V7.1, V3.4: ERR_RIDX before ERR_NOKEY. -/
theorem test_rkread_errors : runWord 0x00000F02 State.reset (fun t => (t.st, t.err)) = some (Block.zero, 0x02) ∧
    runWord 0x00000002 State.reset (fun t => (t.st, t.err)) = some (Block.zero, 0x04) := by decide +kernel

/-- V4.1 -/
theorem test_ecbEnc_fips_c1 :
    runWord 0x00100010 { keyed (Block.ofHex 0x000102030405060708090a0b0c0d0e0f) with
      din := Block.ofHex 0x00112233445566778899aabbccddeeff } (fun t => t.dout) =
    some (Block.ofHex 0x69c4e0d86a7b0430d8cdb78070b4c55a) := by decide +kernel

/-- V7.1: LEN is checked before RK_VALID. -/
theorem test_ecbEnc_errors : runWord 0x000F0010 State.reset (fun t => t.err) = some 0x03 ∧
    runWord 0x00100010 State.reset (fun t => t.err) = some 0x04 := by decide +kernel

/-- V6.1 row 2 -/
theorem test_ecbDec_a1 :
    runWord 0x00100011 { keyed keyA1 with din := Block.ofHex 0x3ad77bb40d7a3660a89ecaf32466ef97 } (fun t => (t.dout, t.iv)) =
    some (Block.ofHex 0x6bc1bee22e409f96e93d7e117393172a, Block.zero) := by decide +kernel

/-- V6.1 row 3 -/
theorem test_cbcEnc_a1 :
    runWord 0x00100012 { keyed keyA1 with din := Block.ofHex 0x6bc1bee22e409f96e93d7e117393172a,
                                          iv := Block.ofHex 0x000102030405060708090a0b0c0d0e0f } (fun t => (t.dout, t.iv)) =
    some (Block.ofHex 0x7649abac8119b246cee98e9b12e9197d, Block.ofHex 0x7649abac8119b246cee98e9b12e9197d) := by decide +kernel

/-- V6.1 row 5, V7.3: a failed command does not advance the chain. -/
theorem test_cbcEnc_len_15 :
    runWord 0x000F0012 { keyed keyA1 with iv := Block.ofHex 0x000102030405060708090a0b0c0d0e0f } (fun t => (t.dout, t.iv, t.err)) =
    some (Block.zero, Block.ofHex 0x000102030405060708090a0b0c0d0e0f, 0x03) := by decide +kernel

/-- V6.1 row 4: IV takes the ciphertext, not the plaintext. -/
theorem test_cbcDec_a1 :
    runWord 0x00100013 { keyed keyA1 with din := Block.ofHex 0x7649abac8119b246cee98e9b12e9197d,
                                          iv := Block.ofHex 0x000102030405060708090a0b0c0d0e0f } (fun t => (t.dout, t.iv)) =
    some (Block.ofHex 0x6bc1bee22e409f96e93d7e117393172a, Block.ofHex 0x7649abac8119b246cee98e9b12e9197d) := by decide +kernel

/-- V6.1 row 7: one byte, zero fill, and the counter still advances. -/
theorem test_ctrXcrypt_len_1 :
    runWord 0x00010014 { keyed keyYellow with din := Block.ofHex 0x2fffffffffffffffffffffffffffffff } (fun t => (t.dout, t.iv)) =
    some (Block.ofHex 0x59000000000000000000000000000000, Block.ofHex 0x00000000000000000100000000000000) := by decide +kernel

/-- V6.3 step 3: the keystream reads IV as it stands, the increment reads it big-endian. -/
theorem test_ctrXcrypt_big_endian :
    runWord 0x00010014 { keyed keyYellow with ctrLe := false, iv := Block.ofHex 0x00000000000000000100000000000000 }
      (fun t => (t.dout, t.iv)) =
    some (Block.ofHex 0xd2000000000000000000000000000000, Block.ofHex 0x00000000000000000100000000000001) := by decide +kernel

/-- V2.2 -/
theorem test_subbytes_fips_b :
    runWord 0x00000020 { State.reset with st := Block.ofHex 0x193de3bea0f4e22b9ac68d2ae9f84808 } (fun t => (t.st, t.err)) =
    some (Block.ofHex 0xd42711aee0bf98f1b8b45de51e415230, 0x00) := by decide +kernel

/-- V2.2 -/
theorem test_invSubbytes_fips_b :
    runWord 0x00000021 { State.reset with st := Block.ofHex 0xd42711aee0bf98f1b8b45de51e415230 } (fun t => t.st) =
    some (Block.ofHex 0x193de3bea0f4e22b9ac68d2ae9f84808) := by decide +kernel

/-- V2.4 -/
theorem test_shiftrows_fips_b :
    runWord 0x00000022 { State.reset with st := Block.ofHex 0xd42711aee0bf98f1b8b45de51e415230 } (fun t => t.st) =
    some (Block.ofHex 0xd4bf5d30e0b452aeb84111f11e2798e5) := by decide +kernel

/-- R425 by hand, "Row 0 is unchanged" and row 2 rotated by 2: row 0 is 00 01 02 03, row 2 is 0a 0b 0a 0b, rows 1 and 3 are zero.
The state is unchanged although its rows are not constant (log entry 14). -/
theorem test_shiftrows_fixes_unequal_columns :
    shiftRows (Block.ofHex 0x00000a0001000b0002000a0003000b00) = Block.ofHex 0x00000a0001000b0002000a0003000b00 ∧
    invShiftRows (Block.ofHex 0x00000a0001000b0002000a0003000b00) = Block.ofHex 0x00000a0001000b0002000a0003000b00 := by decide +kernel

/-- V2.5 -/
theorem test_invShiftrows_count :
    runWord 0x00000023 { State.reset with st := Block.ofHex 0x000102030405060708090a0b0c0d0e0f } (fun t => t.st) =
    some (Block.ofHex 0x000d0a0704010e0b0805020f0c090603) := by decide +kernel

/-- V2.7 -/
theorem test_mixcolumns_count :
    runWord 0x00000024 { State.reset with st := Block.ofHex 0x000102030405060708090a0b0c0d0e0f } (fun t => t.st) =
    some (Block.ofHex 0x02070005060304010a0f080d0e0b0c09) := by decide +kernel

/-- V2.8 -/
theorem test_invMixcolumns_count :
    runWord 0x00000025 { State.reset with st := Block.ofHex 0x000102030405060708090a0b0c0d0e0f } (fun t => t.st) =
    some (Block.ofHex 0x0a0f080d0e0b0c090207000506030401) := by decide +kernel

/-- V2.10, ridx = 1 -/
theorem test_addroundkey_one :
    runWord 0x00000126 { keyed keyA1 with st := Block.ofHex 0x046681e5e0cb199a48f8d37a2806264c } (fun t => (t.st, t.err)) =
    some (Block.ofHex 0xa49c7ff2689f352b6b5bea43026a5049, 0x00) := by decide +kernel

/-- V2.10, V7.1: the errors of ADDROUNDKEY. -/
theorem test_addroundkey_errors : runWord 0x00000B26 State.reset (fun t => t.err) = some 0x02 ∧
    runWord 0x00000A26 State.reset (fun t => t.err) = some 0x04 := by decide +kernel

/-- V1.2 -/
theorem test_gfmul_products :
    [(0x57, 0x83, 0xC1), (0x57, 0x13, 0xFE), (0xFF, 0xFF, 0x13), (0x80, 0x80, 0x9A), (0x0E, 0x09, 0x7E)].all
      (fun p : Byte × Byte × Byte =>
        runWord 0x00000030 { State.reset with gfA := p.1, gfB := p.2.1 } (fun t => (t.gfA, t.gfB, t.gfP)) = some (p.1, p.2.1, p.2.2))
      = true := by decide +kernel

/-- V7.1: an illegal word. -/
theorem test_illegal_word : runWord 0x00000003 (keyed keyA1) (fun t => (t.err, t.rkValid)) = some (0x01, true) := by decide +kernel

/-! ## Functions -/

/-- V1.1 -/
theorem test_xtime : [0x00, 0x01, 0x57, 0x7F, 0x80, 0x8D, 0xFF].map xtime = [0x00, 0x02, 0xAE, 0xFE, 0x1B, 0x01, 0xE5] := by decide
/-- V1.3 -/
theorem test_ginv : [0x00, 0x01, 0x02, 0x53, 0xFF].map ginv = [0x00, 0x01, 0x8D, 0xCA, 0x1C] := by decide +kernel
/-- V2.1 -/
theorem test_sbox : [0x10, 0x52, 0x7F, 0xCA, 0xFF].map sbox = [0xCA, 0x00, 0xD2, 0x74, 0x16] ∧
    [0x10, 0x52, 0x7F, 0xCA, 0xFF].map invSbox = [0x7C, 0x48, 0x6B, 0x10, 0x7D] := by decide +kernel
/-- V6.2 -/
theorem test_ctrIncrement_carry :
    ctrIncrement (⟨0xff, 0, 0, 0⟩, ⟨0, 0, 0, 0⟩) true = (⟨0x00, 0x01, 0, 0⟩, ⟨0, 0, 0, 0⟩) ∧
    ctrIncrement (⟨0, 0, 0, 0⟩, ⟨0, 0, 0, 0xff⟩) false = (⟨0, 0, 0, 0⟩, ⟨0, 0, 0x01, 0x00⟩) := by decide +kernel
/-- V5.6: "hello" -/
theorem test_ctr_hello :
    ctrCrypt keyYellow none [0x68, 0x65, 0x6c, 0x6c, 0x6f] true 0 = [0x1e, 0xb4, 0xa7, 0x27, 0xc0] := by decide +kernel
/-- V5.9, R500: 15 bytes are malformed, 0 bytes give 0 bytes. -/
theorem test_malformed : ecbEncrypt keyA1 (List.replicate 15 0x00) = .malformedInput ∧
    cbcEncrypt keyA1 none (List.replicate 17 0x00) = .malformedInput ∧ ecbEncrypt keyA1 [] = .bytes [] := by decide +kernel

/-! ## The bus, reset and the run -/

/-- V8.1: reads after reset. -/
theorem test_bus_after_reset :
    [0x00, 0x04, 0x08, 0x0C, 0x60, 0xFC].map (busRead State.reset 4) =
      [.word 0x00000001, .word 0, .word 0, .word 0, .word 0, .word 0] ∧
    busRead State.reset 1 0x00 = .byte 0x01 ∧ busRead State.reset 1 0x0A = .byte 0x00 := by decide +kernel

/-- V8.2: GF stores A and B, STATUS and a reserved offset store nothing. -/
theorem test_bus_writes :
    after (accessAll [.write 4 0x80 0x12345678, .write 4 0x04 0xFFFFFFFF, .write 4 0x0C 0xFFFFFFFF, .write 4 0x00 0xFFFFFFFE] State.reset)
      (fun t => [0x80, 0x04, 0x0C, 0x00].map (busRead t 4)) =
    some [.word 0x00000000, .word 0x00000000, .word 0x0000FFFF, .word 0x00000000] := by decide +kernel

/-- V8.2: mixed widths at KEY, and P4: a KEY byte of the value it holds clears RK_VALID and keeps ERR. -/
theorem test_bus_key_bytes :
    after (accessAll [.write 4 0x10 0x03020100, .write 1 0x12 0xAA] State.reset)
      (fun t => (busRead t 1 0x11, busRead t 4 0x10)) = some (.byte 0x01, .word 0x03AA0100) ∧
    after (hostAccess (.write 1 0x10 0x2B) { keyed keyA1 with err := 0x01 }) (fun t => (t.rkValid, t.err)) =
      some (false, 0x01) := by decide +kernel

/-- V8.3 and P5: the refused accesses are bus errors. -/
theorem test_bus_refused :
    [.write 1 0x08 0x10, .write 1 0x0B 0, .read 2 0x00, .read 8 0x00, .read 16 0x10, .read 4 0x0E, .write 4 0x11 0].all
      (fun a : Access => faultOf (step { State.reset with pending := [.access a] }) = some .busError) = true := by decide +kernel

/-- R700, R701: a reset pulse clears the block; R710: the step after the last event has none. -/
theorem test_reset_pulse :
    after (step { keyed keyA1 with pending := [.reset], ctrLe := false, gfP := 0xC1 })
      (fun t => (t.key, t.rkValid, t.ctrLe, t.gfP)) = some (Block.zero, false, true, 0x00) ∧
    faultOf (step State.reset) = some .endOfRun := by decide +kernel

/-- R310, R311, and the lines of P1 and P4 as text. -/
theorem test_program_text :
    assembleText "rd8 KEY+4".toList = some [.read 1 0x14] ∧
    assembleText "cmd ADDROUNDKEY ridx=10 -- a comment\n\n  wr8 GF+1, 0x83 ; B\nrd32 STATUS -> 0x00000100".toList =
      some [.write 4 0x08 0x00000A26, .write 1 0x0D 0x83, .read 4 0x04] ∧
    assembleText "wr128 KEY, 000102030405060708090a0b0c0d0e0f".toList =
      some [.write 4 0x10 0x03020100, .write 4 0x14 0x07060504, .write 4 0x18 0x0B0A0908, .write 4 0x1C 0x0F0E0D0C] ∧
    assembleText "cmd KEYEXP ridx=1".toList = none ∧ assembleText "cmd RKREAD ridx=16".toList = none := by decide +kernel

/-! ## Witnesses: the hypotheses of the statements can be met -/

theorem test_witness_DecodeOfEncode : (Instr.addroundkey 0).wf = true ∧ (Instr.rkread 15).wf = true ∧ (Instr.ecbEnc 31).wf = true := by
  decide
theorem test_witness_EncodeOfDecode : decodeWord 0x001F0014 = .command (.ctrXcrypt 31) := by decide
theorem test_witness_DecodeFollowsOpcodeMap : (0x00000F02 : Word32) &&& 0xFFFFF0FF = 0x00000002 ∧
    allMnemonics.all (fun m => (0x80000030 : Word32) &&& m.mask != m.fixedBits) = true := by decide
theorem test_witness_ReservedWordsFailIllegal :
    [0x03, 0x0F, 0x15, 0x1F, 0x27, 0x2F, 0x31, 0xFF].all (fun op : Nat =>
      decide ((0x03 ≤ op ∧ op ≤ 0x0F) ∨ (0x15 ≤ op ∧ op ≤ 0x1F) ∨ (0x27 ≤ op ∧ op ≤ 0x2F) ∨ 0x31 ≤ op) &&
      ((BitVec.ofNat 32 op).extractLsb' 0 8).toNat == op) = true ∧
    (0x00101014 : Word32).extractLsb' 0 8 = Mnemonic.ctrXcrypt.op ∧
    ((0x00101014 : Word32) &&& Mnemonic.ctrXcrypt.mask) >>> 8 ≠ 0 := by decide
theorem test_witness_CommandLineWord :
    (assembleLine (.cmd .rkread (some 15) none)).isSome = true ∧ (assembleLine (.cmd .ctrXcrypt none (some 31))).isSome = true ∧
    assembleLine (.cmd .rkread (some 16) none) = none ∧ assembleLine (.cmd .ecbEnc none (some 32)) = none ∧
    assembleLine (.cmd .nop (some 0) none) = none ∧ assembleLine (.cmd .addroundkey none (some 0)) = none := by decide
theorem test_witness_ReadValueOfEachByte :
    hostAccess (.read 4 0xFC) State.reset = .next { State.reset with reads := [.word 0] } := rfl
theorem test_witness_WriteEffectOfEachByte : (0x07#8).toNat < 0x08 ∧ 0x0C ≤ (0x0C#8).toNat := by decide
theorem test_witness_ReadLanesLittleEndian : (0xFC#8).toNat % 4 = 0 := by decide
theorem test_witness_WriteLanesLittleEndian :
    admitted (.write 1 0x0B 0) = false ∧ admitted (.write 4 0x08 0) = true ∧ admitted (.write 1 0x07 0) = true ∧
    admitted (.write 4 0x0C 0) = true := by decide
theorem test_witness_AccessRefusedExactly : hostAccess (.read 1 0xFF) State.reset ≠ .fault .busError := by
  intro h
  cases h
theorem test_witness_MixedWidthsSeeOneArray :
    (0xFC#8).toNat % 4 = 0 ∧ (0xFC#8) ≠ 0x08 ∧ (0x08#8).toNat % 4 = 0 := by decide
theorem test_witness_WrittenByteReadsBack :
    [0x10#8, 0x3F#8, 0x50#8, 0x5F#8].all (fun x =>
      decide ((0x10 ≤ x.toNat ∧ x.toNat < 0x40) ∨ (0x50 ≤ x.toNat ∧ x.toNat < 0x60)) && x != 0x40 && (0x40#8) != 0x05) = true := by
  decide
theorem test_witness_RkValidWrittenInTwoWays :
    [.reset, .access (.read 4 0x04), .access (.write 4 0x08 1), .access (.write 1 0x10 0), .access (.write 4 0x1C 0),
     .access (.write 1 0x20 0), .access (.write 4 0x08 0x10)].all
      (fun e : HostEvent => (after (step { keyed keyA1 with pending := [e] }) (fun _ => ())).isSome) = true := by decide +kernel
theorem test_witness_BlockWritesAndReads :
    [RegName.key, .iv, .din, .dout, .st].all isBlockReg = true := by decide
theorem test_witness_StepRunsTheDecodedCommand :
    { State.reset with pending := [.access (.write 4 0x08 1), .reset] }.pending = .access (.write 4 0x08 1) :: [.reset] ∧
    decodeWord 1 = .command .keyexp ∧ { State.reset with pending := [.reset] }.pending = .reset :: [] ∧
    State.reset.pending = [] := by decide

/-- One command of each constructor, each with a legal operand. -/
def everyCommand : List Instr :=
  [.nop, .keyexp, .rkread 10, .ecbEnc 16, .ecbDec 16, .cbcEnc 16, .cbcDec 16, .ctrXcrypt 1, .subbytes, .invSubbytes,
   .shiftrows, .invShiftrows, .mixcolumns, .invMixcolumns, .addroundkey 0, .gfmul]

/-- Every command succeeds in a keyed state (V9.3, and the other seven once KEYEXP has run). -/
theorem test_witness_CommandsKeepOtherRegisters :
    everyCommand.all (fun i => after (exec i (keyed keyA1)) (fun t => t.err) = some 0x00) = true := by decide +kernel
theorem test_witness_CommandsKeepOtherWindowBytes :
    (¬ offsetIn .st 0x4F ∧ ¬ offsetIn .st 0x60) ∧ (¬ offsetIn .dout 0x3F ∧ ¬ offsetIn .dout 0x50) ∧
    (¬ offsetIn .iv 0x1F ∧ ¬ offsetIn .iv 0x30) ∧ ¬ offsetIn .dout 0x27 ∧ (0x0D#8) ≠ 0x0E := by
  unfold offsetIn
  decide
theorem test_witness_InverseIsUnique : (0x53#8) ≠ 0x00 ∧ gmul 0x53 0xCA = 0x01 := by decide +kernel
theorem test_witness_FieldLaws : gmul 0x00 0x53 = 0x00 := by decide +kernel

/-- A word with the OP of each command without fields and the reserved bit 31 set; and one with bit 8 set. -/
theorem test_witness_noFieldEncoding :
    [0x00, 0x01, 0x20, 0x21, 0x22, 0x23, 0x24, 0x25, 0x30].all (fun op : Byte =>
      (op.setWidth 32 ||| 0x80000000 : Word32).extractLsb' 0 8 == op && (op.setWidth 32 ||| 0x80000000 : Word32).extractLsb' 8 24 != 0 &&
      (op.setWidth 32 ||| 0x00000100 : Word32).extractLsb' 8 24 != 0) = true := by decide
theorem test_witness_ridxEncoding :
    [0x02, 0x26].all (fun op : Byte =>
      (op.setWidth 32 ||| 0x00001000 : Word32).extractLsb' 0 8 == op && (op.setWidth 32 ||| 0x00001000 : Word32).extractLsb' 12 20 != 0 &&
      (op.setWidth 32 ||| 0x80000000 : Word32).extractLsb' 12 20 != 0) = true := by decide
theorem test_witness_lenEncoding :
    [0x10, 0x11, 0x12, 0x13, 0x14].all (fun op : Byte =>
      (op.setWidth 32 ||| 0x00200000 : Word32).extractLsb' 0 8 == op && (op.setWidth 32 ||| 0x00200000 : Word32).extractLsb' 21 11 != 0 &&
      (op.setWidth 32 ||| 0x00008000 : Word32).extractLsb' 8 8 != 0) = true := by decide

/-- States of equal columns, and a column of equal bytes (ShiftRowsFixedStates, ShiftRowsCommands, MixColumnsCommands). -/
theorem test_witness_equal_columns :
    let c := Column.ofHex 0xdb135345
    let b : Block := ⟨c, c, c, c⟩
    (b.c0 = b.c1 ∧ b.c1 = b.c2 ∧ b.c2 = b.c3) ∧ Block.zero.cell 0 3 = Block.zero.cell 1 3 := by decide

/-- A state with the invariant and the round keys of its key (AddRoundKeyCommand, RkreadCopiesRoundKey, the commands and streams
that need round keys). -/
theorem test_witness_keyed : (keyed keyA1).Inv ∧ (keyed keyA1).rkValid = true ∧ State.reset.rkValid = false := by
  refine ⟨⟨fun _ => rfl, by decide⟩, rfl, rfl⟩
theorem test_witness_ridx_clauses : 10 < 11 ∧ 10 ≤ 10 ∧ (0 : Nat) ≤ 10 := by decide
theorem test_witness_KeyScheduleRecurrence : ((1 : Nat) ≤ 1 ∧ (10 : Nat) ≤ 10) ∧ ((2 : Nat) ≤ 2 ∧ (1 : Nat) ≤ 3) := by decide
theorem test_witness_KeyexpExpands : ∃ t, exec (.rkread 0) State.reset = .next t ∧ Instr.rkread 0 ≠ .keyexp :=
  ⟨_, rfl, by decide⟩
theorem test_witness_ScheduleLaws :
    (keyExpansion keyA1).get (Fin.ofNat 11 9) = (keyExpansion keyA1).get (Fin.ofNat 11 9) ∧ 9 < 10 ∧ 9 ≤ 10 := by decide
theorem test_witness_CipherIsPermutation :
    cipher Block.zero (keyed keyA1).rk = cipher Block.zero (keyed keyA1).rk := rfl
theorem test_witness_LEN_clauses : (0 ≠ 16 ∧ 15 ≠ 16 ∧ 17 ≠ 16) ∧ 16 < 17 ∧ 1 ≤ 1 ∧ 16 ≤ 16 ∧ State.reset.iv = Block.zero := by decide
theorem test_witness_CtrCommand :
    (⟨0xFF, 0xFF, 0xFF, 0xFF⟩ : Column) = Column.ofHex 0xFFFFFFFF ∧
    ∀ i : Fin 16, i.val < 1 →
      (Block.ofHex 0x2fffffffffffffffffffffffffffffff).byte i = (Block.ofHex 0x2f000000000000000000000000000000).byte i := by decide

/-- V4.3 as a message of one block (EcbCbcMessagesRoundTrip); CBC with the all-zero IV is ECB on the first block (R512). -/
theorem test_witness_EcbCbcMessagesRoundTrip :
    ecbEncrypt Block.zero (List.replicate 16 0x00) = .bytes (Block.ofHex 0x66e94bd4ef8a2c3b884cfa59ca342b2e).toBytes ∧
    cbcEncrypt Block.zero none (List.replicate 16 0x00) = .bytes (Block.ofHex 0x66e94bd4ef8a2c3b884cfa59ca342b2e).toBytes := by
  decide +kernel
theorem test_witness_CtrMessagesSelfInverse : ([0x80] : List Byte).length = ([0x68] : List Byte).length := rfl
theorem test_witness_streams :
    blocksOf (List.replicate 16 (0x00 : Byte)) = some [Block.zero] ∧
    ecbEncrypt (keyed Block.zero).key (List.replicate 16 0x00) = .bytes (Block.ofHex 0x66e94bd4ef8a2c3b884cfa59ca342b2e).toBytes ∧
    cbcEncrypt (keyed Block.zero).key (some (keyed Block.zero).iv) (List.replicate 16 0x00) =
      .bytes (Block.ofHex 0x66e94bd4ef8a2c3b884cfa59ca342b2e).toBytes := by decide +kernel

/-- V4.3, the decrypting direction. -/
theorem test_witness_streams_decrypt :
    ecbDecrypt (keyed Block.zero).key (List.replicate 16 0x00) = .bytes (Block.ofHex 0x140f0f1011b5223d79587717ffd9ec3a).toBytes ∧
    cbcDecrypt (keyed Block.zero).key (some (keyed Block.zero).iv) (List.replicate 16 0x00) =
      .bytes (Block.ofHex 0x140f0f1011b5223d79587717ffd9ec3a).toBytes := by decide +kernel

/-- The four cases of ErrorPriority and ErrIsNotSticky. -/
theorem test_witness_ErrorPriority :
    decodeWord 0x00000003 = .illegal .reservedOpcode ∧
    (decodeWord 0x00000B26 = .command (.addroundkey 11) ∧ fieldError (.addroundkey 11) = some .ridx) ∧
    (decodeWord 0x00110014 = .command (.ctrXcrypt 17) ∧ fieldError (.ctrXcrypt 17) = some .length) ∧
    (decodeWord 0x00100010 = .command (.ecbEnc 16) ∧ fieldError (.ecbEnc 16) = none ∧ needsKeys (.ecbEnc 16) = true) ∧
    (decodeWord 0x00000030 = .command .gfmul ∧ fieldError .gfmul = none ∧ needsKeys .gfmul = false) := by decide
theorem test_witness_NoKeyAfterReset :
    [Instr.rkread 0, .rkread 10, .addroundkey 10, .ecbEnc 16, .ecbDec 16, .cbcEnc 16, .cbcDec 16, .ctrXcrypt 1, .ctrXcrypt 16].all
      (fun i => needsKeys i && fieldError i == none) = true := by decide

/-- A write that is no KEYEXP steps from RK_VALID = 0, and the run of a failing command and a reset pulse before KEYEXP. -/
theorem test_witness_NoKeyAfterReset_steps :
    (State.reset.rkValid = false ∧ (after (step { State.reset with pending := [.access (.write 1 0x20 0)] }) (fun _ => ())).isSome) ∧
    (HostEvent.access (.write 4 0x08 0x00000001) ∉
      [HostEvent.access (.write 4 0x08 0x00100010), .reset, .access (.write 4 0x08 0x00000001)].take 2) ∧
    after (runEvents 2 (State.afterReset 0
      [.access (.write 4 0x08 0x00100010), .reset, .access (.write 4 0x08 0x00000001)] [])) (fun t => t.rkValid) = some false := by
  decide +kernel
theorem test_witness_StepKeepsInvariant :
    (keyed keyA1).Inv ∧ ∃ t, step { keyed keyA1 with pending := [.access (.write 1 0x10 0)] } = .next t :=
  ⟨⟨fun _ => rfl, by decide⟩, _, rfl⟩
theorem test_witness_UnspecifiedRoundKeysUnobserved : State.reset.sameView { State.reset with rk := keyExpansion keyA1 } :=
  ⟨rfl, fun h => by cases h⟩
theorem test_witness_RunsFaultOnlyOnRefusedAccess :
    { State.reset with pending := [.access (.read 4 0x04), .reset, .access (.write 4 0x08 1)] }.pendingAdmitted ∧
    ¬ { State.reset with pending := [.access (.write 1 0x08 0)] }.pendingAdmitted := by
  constructor
  · intro a h
    simp only [List.mem_cons, HostEvent.access.injEq, List.not_mem_nil, or_false, reduceCtorEq, false_or] at h
    rcases h with rfl | rfl <;> decide
  · intro h
    exact absurd (h (.write 1 0x08 0) (by simp)) (by decide)

end Sys2Proof.Tests
end

section
/-! PROOFS. What the commands, the byte writes and a step do to KEY, RK, RK_VALID and ERR, the invariant of the block, and
that round keys that are not valid are never observed (10_state.md R109 to R111, R115; 60_exceptions.md R600). -/

namespace Sys2Proof.Machine

/-! ### The word of KEYEXP -/

/-- A command built from a row of the opcode map comes from that row. -/
@[simp] theorem mnemonic_command (m : Mnemonic) (ridx len : Nat) : (m.command ridx len).mnemonic = m := by
  cases m <;> rfl

/-- KEYEXP has one word, for its mask fixes every bit (30_encoding.md R305). -/
theorem decodeWord_eq_keyexp {w : Word32} : decodeWord w = .command .keyexp ↔ w = 0x00000001 := by
  constructor
  · intro h
    rcases decodeWord_cases w with ⟨m, _, hw, hd⟩ | ⟨m, _, _, hd⟩ | ⟨_, hd⟩ <;> rw [hd] at h
    · obtain rfl : m = .keyexp :=
        (mnemonic_command m _ _).symm.trans (congrArg Instr.mnemonic (Decoded.command.inj h))
      have hones : w &&& Mnemonic.keyexp.mask = w := BitVec.and_allOnes
      exact hones.symm.trans hw
    · cases h
    · cases h
  · rintro rfl
    decide

/-! ### What a command does to the round keys -/

/-- The command that led from `s` to `t` left RK, RK_VALID and KEY as they were and ended with a code of R600. -/
structure KeepsSchedule (s t : State) : Prop where
  rk : t.rk = s.rk
  rkValid : t.rkValid = s.rkValid
  key : t.key = s.key
  err_le : t.err.toNat ≤ 4

theorem raiseCmdError_keepsSchedule (e : CmdStatus) (s : State) : KeepsSchedule s (raiseCmdError e s) :=
  ⟨rfl, rfl, rfl, errCode_le_four e⟩

/-- A successful command keeps the schedule when its effect does; the code is 0x00. -/
theorem succeed_keepsSchedule {s u : State} (hrk : u.rk = s.rk) (hvalid : u.rkValid = s.rkValid) (hkey : u.key = s.key) :
    KeepsSchedule s (succeed u) :=
  ⟨hrk, hvalid, hkey, errCode_le_four .ok⟩

/-- A command that uses the round keys keeps the schedule on each of its three paths, when its effect does. -/
theorem withSchedule_keepsSchedule {fieldOk : Bool} {e : CmdStatus} {effect : State → State} {s : State}
    (hrk : (effect s).rk = s.rk) (hvalid : (effect s).rkValid = s.rkValid) (hkey : (effect s).key = s.key) :
    KeepsSchedule s (withSchedule fieldOk e effect s) := by
  rcases withSchedule_cases fieldOk e effect s with ⟨_, h⟩ | ⟨_, _, h⟩ | ⟨_, _, h⟩ <;> rw [h]
  · exact raiseCmdError_keepsSchedule e s
  · exact raiseCmdError_keepsSchedule .noKey s
  · exact succeed_keepsSchedule hrk hvalid hkey

/-- KEYEXP from every state (42_key_schedule.md R465). -/
theorem exec_keyexp (s : State) :
    exec .keyexp s = .next { s with rk := keyExpansion s.key, rkValid := true, err := 0x00 } := rfl

/-- Every command but KEYEXP, successful or failed, keeps RK, RK_VALID and KEY (10_state.md R109 to R111). -/
theorem exec_keepsSchedule {i : Instr} (hi : i ≠ .keyexp) (s : State) : ∃ t, exec i s = .next t ∧ KeepsSchedule s t := by
  cases i with
  | keyexp => exact absurd rfl hi
  | nop | subbytes | invSubbytes | shiftrows | invShiftrows | mixcolumns | invMixcolumns | gfmul =>
    exact ⟨_, rfl, succeed_keepsSchedule rfl rfl rfl⟩
  | rkread | addroundkey | ecbEnc | ecbDec | cbcEnc | cbcDec | ctrXcrypt =>
    exact ⟨_, rfl, withSchedule_keepsSchedule rfl rfl rfl⟩

/-- The two things a command word can do to the round keys: the word of KEYEXP writes the schedule of KEY, every other word,
an illegal one included, keeps them. -/
theorem runCommand_cases {w : Word32} {s t : State} (h : runCommand w s = .next t) :
    (w = 0x00000001 ∧ t = { s with rk := keyExpansion s.key, rkValid := true, err := 0x00 }) ∨
    (w ≠ 0x00000001 ∧ KeepsSchedule s t) := by
  by_cases hw : w = 0x00000001
  · rw [runCommand_command (decodeWord_eq_keyexp.2 hw), exec_keyexp] at h
    exact .inl ⟨hw, (Host.Outcome.next.inj h).symm⟩
  · refine .inr ⟨hw, ?_⟩
    cases hd : decodeWord w with
    | command i =>
      have hi : i ≠ .keyexp := fun hi => hw (decodeWord_eq_keyexp.1 (hi ▸ hd))
      obtain ⟨u, hu, hkeeps⟩ := exec_keepsSchedule hi s
      rw [runCommand_command hd, hu] at h
      exact Host.Outcome.next.inj h ▸ hkeeps
    | illegal why =>
      rw [runCommand_illegal hd] at h
      exact Host.Outcome.next.inj h ▸ raiseCmdError_keepsSchedule .illegal s

/-! ### What a host write does to the round keys -/

/-- What every byte write keeps, a host write keeps. -/
theorem storeLanes_induction {P : State → Prop} (hP : ∀ x d u, P u → P (writeByte x d u)) (n : Nat) (o : BitVec 8)
    (v : Word32) {s : State} (hs : P s) : P (storeLanes n o v s) :=
  List.foldlRecOn _ _ hs fun u hu _ _ => hP _ _ u hu

/-- The offsets of KEY (20_memory.md R201). -/
theorem windowByte_key (x : BitVec 8) : (∃ i, windowByte x = .key i) ↔ 0x10 ≤ x.toNat ∧ x.toNat ≤ 0x1F := by
  revert x
  decide +kernel

/-- A byte write clears RK_VALID at an offset of KEY and keeps it everywhere else (10_state.md R111). -/
theorem writeByte_rkValid (x : BitVec 8) (d : Byte) (s : State) :
    (writeByte x d s).rkValid = if 0x10 ≤ x.toNat ∧ x.toNat ≤ 0x1F then false else s.rkValid := by
  rw [← if_congr (windowByte_key x) rfl rfl]
  unfold writeByte
  cases windowByte x <;> simp [writeKeyByte_eq]

/-- An offset of an aligned 4-byte access lies in KEY exactly if the first one does (20_memory.md R203). -/
theorem inKey_add_iff {o : BitVec 8} (ho : o.toNat % 4 = 0) {k : BitVec 8} (hk : k.toNat < 4) :
    0x10 ≤ (o + k).toNat ∧ (o + k).toNat ≤ 0x1F ↔ 0x10 ≤ o.toNat ∧ o.toNat ≤ 0x1F := by
  have hlt := o.isLt
  rw [BitVec.toNat_add, Nat.mod_eq_of_lt (by omega)]
  omega

/-- A host write of an admitted width clears RK_VALID at an offset of KEY and keeps it everywhere else
(10_state.md R111). -/
theorem storeLanes_rkValid {n : Nat} {o : BitVec 8} (hadm : widthAdmitted n o = true) (v : Word32) (s : State) :
    (storeLanes n o v s).rkValid = if 0x10 ≤ o.toNat ∧ o.toNat ≤ 0x1F then false else s.rkValid := by
  rcases admitted_width hadm with rfl | ⟨rfl, ho⟩
  · rw [storeLanes_one, writeByte_rkValid]
  · simp only [storeLanes_four, writeByte_rkValid, inKey_add_iff ho (k := 1) (by decide),
      inKey_add_iff ho (k := 2) (by decide), inKey_add_iff ho (k := 3) (by decide)]
    split <;> rfl

/-- An admitted write to CMD is the 4-byte write at offset 0x08 (20_memory.md R206, R209). -/
theorem offset_of_command_write {n : Nat} {o : BitVec 8} {v : Word32} (hadm : admitted (.write n o v) = true)
    (hc : windowByte o = .command) : o = 0x08 := by
  have hrange := (windowByte_command o).1 hc
  simp only [admitted, hc, beq_self_eq_true, Bool.and_true, Bool.and_eq_true, Bool.not_eq_true', beq_eq_false_iff_ne] at hadm
  obtain ⟨hwidth, hn⟩ := hadm
  obtain ⟨_, ho⟩ := (admitted_width hwidth).resolve_left hn
  apply BitVec.eq_of_toNat_eq
  change o.toNat = 8
  omega

/-- Settles O14: by the four things a step can do (`step_cases`). A write to CMD sets RK_VALID by the word of KEYEXP alone, and
a write elsewhere clears it in KEY alone. -/
theorem rkValidWrittenInTwoWays : Obligations.RkValidWrittenInTwoWays := by
  intro s t h
  rcases step_cases h with ⟨rest, hp, rfl⟩ | ⟨n, o, rest, hp, _, rfl⟩ | ⟨n, o, v, rest, hp, hadm, hc, hrun⟩ |
    ⟨n, o, v, rest, hp, hadm, hc, rfl⟩ <;> simp only [hp]
  · rfl
  · rfl
  · obtain rfl := offset_of_command_write hadm hc
    have hkey : ¬ (0x10 ≤ (0x08 : BitVec 8).toNat ∧ (0x08 : BitVec 8).toNat ≤ 0x1F) := by decide
    rcases runCommand_cases hrun with ⟨rfl, rfl⟩ | ⟨hv, hkeeps⟩
    · exact ⟨fun _ => rfl, fun hin => absurd hin hkey, fun hno => absurd ⟨rfl, rfl⟩ hno⟩
    · exact ⟨fun hw => absurd hw.2 hv, fun hin => absurd hin hkey, fun _ _ => hkeeps.rkValid⟩
  · have hwidth : widthAdmitted n o = true := (Bool.and_eq_true_iff.1 hadm).1
    have ho : o ≠ 0x08 := fun ho => hc (ho ▸ rfl)
    rw [storeLanes_rkValid hwidth]
    exact ⟨fun hw => absurd hw.1 ho, fun hkey => if_pos hkey, fun _ hkey => if_neg hkey⟩

/-! ### The invariant -/

/-- The invariant holds after every reset (70_reset_and_hazards.md R701). -/
theorem afterReset_inv (n : Nat) (pending : List HostEvent) (reads : List BusValue) :
    (State.afterReset n pending reads).Inv :=
  ⟨Bool.noConfusion, Nat.zero_le 4⟩

/-- Settles O57: power-on reset is one of the resets. -/
theorem invariantAtReset : Obligations.InvariantAtReset :=
  afterReset_inv 0 [] []

theorem KeepsSchedule.inv {s t : State} (h : KeepsSchedule s t) (hs : s.Inv) : t.Inv := by
  refine ⟨fun hvalid => ?_, h.err_le⟩
  rw [h.rk, h.key]
  exact hs.1 (h.rkValid ▸ hvalid)

theorem runCommand_keeps_inv {w : Word32} {s t : State} (hs : s.Inv) (h : runCommand w s = .next t) : t.Inv := by
  rcases runCommand_cases h with ⟨_, rfl⟩ | ⟨_, hkeeps⟩
  · exact ⟨fun _ => rfl, Nat.zero_le 4⟩
  · exact hkeeps.inv hs

/-- A byte write keeps KEY and RK_VALID, or clears RK_VALID. -/
theorem writeByte_keeps_inv (x : BitVec 8) (d : Byte) (s : State) (hs : s.Inv) : (writeByte x d s).Inv := by
  obtain ⟨herr, hrk, _, _, _, _, _, ⟨hkey, hvalid⟩ | hcleared⟩ := writeByte_keeps x d s
  · simpa only [State.Inv, herr, hrk, hkey, hvalid] using hs
  · simpa [State.Inv, herr, hcleared] using hs.2

/-- Settles O58: by the four things a step can do (`step_cases`). -/
theorem stepKeepsInvariant : Obligations.StepKeepsInvariant := by
  intro s t hs h
  rcases step_cases h with ⟨rest, _, rfl⟩ | ⟨n, o, rest, _, _, rfl⟩ | ⟨n, o, v, rest, _, _, _, hrun⟩ |
    ⟨n, o, v, rest, _, _, _, rfl⟩
  · exact afterReset_inv _ _ _
  · exact hs
  · exact runCommand_keeps_inv (s := s.setPending rest) hs hrun
  · exact storeLanes_induction writeByte_keeps_inv n o v (s := s.setPending rest) hs

/-! ### Round keys that are not valid are never observed -/

/-- No byte of the window shows RK (10_state.md R109). -/
@[simp] theorem readByte_setRk (s : State) (rk : Vector Block 11) (x : BitVec 8) : readByte (s.setRk rk) x = readByte s x := rfl

/-- A byte write neither reads nor writes RK. -/
theorem writeByte_setRk (s : State) (rk : Vector Block 11) (x : BitVec 8) (d : Byte) :
    writeByte x d (s.setRk rk) = (writeByte x d s).setRk rk := by
  unfold writeByte
  cases windowByte x <;> rfl

theorem storeLanes_setRk (s : State) (rk : Vector Block 11) (n : Nat) (o : BitVec 8) (v : Word32) :
    storeLanes n o v (s.setRk rk) = (storeLanes n o v s).setRk rk :=
  List.foldl_hom (State.setRk · rk) fun u k => writeByte_setRk u rk (o + BitVec.ofNat 8 k) (lane v k)

/-- No host write sets RK_VALID. -/
theorem storeLanes_keeps_notValid {n : Nat} {o : BitVec 8} {v : Word32} {s : State} (hv : s.rkValid = false) :
    (storeLanes n o v s).rkValid = false :=
  storeLanes_induction (P := fun u => u.rkValid = false) (fun x d u hu => by simp [writeByte_rkValid, hu]) n o v hv

theorem State.sameView_refl (s : State) : s.sameView s := ⟨rfl, fun _ => rfl⟩

/-- While RK_VALID is 0, RK may be anything. -/
theorem State.sameView_setRk {s : State} (hv : s.rkValid = false) (rk : Vector Block 11) : s.sameView (s.setRk rk) :=
  ⟨rfl, fun hvalid => nomatch hv.symm.trans hvalid⟩

/-- Two states that no host can tell apart are equal, or differ in an RK that is not valid. -/
theorem State.sameView_cases {s t : State} (h : s.sameView t) : s = t ∨ (s.rkValid = false ∧ t = s.setRk t.rk) := by
  obtain ⟨ht, hrk⟩ := h
  cases hv : s.rkValid with
  | false => exact .inr ⟨rfl, ht⟩
  | true => exact .inl (by rw [ht, ← hrk hv])

theorem sameOutcome_refl (a : Result) : sameOutcome a a := by
  cases a with
  | next s => exact s.sameView_refl
  | fault r => rfl
  | refused r => rfl

section

variable {s : State} (hv : s.rkValid = false) (rk : Vector Block 11)
include hv

/-- A command that uses the round keys fails before it reads them while RK_VALID is 0 (10_state.md R110). -/
theorem withSchedule_sameView (fieldOk : Bool) (e : CmdStatus) (effect : State → State) :
    (withSchedule fieldOk e effect s).sameView (withSchedule fieldOk e effect (s.setRk rk)) := by
  cases hf : fieldOk with
  | false =>
    rw [withSchedule_fieldError rfl, withSchedule_fieldError rfl]
    exact State.sameView_setRk (s := raiseCmdError e s) hv rk
  | true =>
    rw [withSchedule_noKey rfl e effect hv, withSchedule_noKey rfl e effect (s := s.setRk rk) hv]
    exact State.sameView_setRk (s := raiseCmdError .noKey s) hv rk

/-- A command without a need of round keys, whose effect does not read RK. -/
theorem always_sameView {effect : State → State} (heffect : effect (s.setRk rk) = (effect s).setRk rk)
    (hvalid : (effect s).rkValid = s.rkValid) : (always effect s).sameView (always effect (s.setRk rk)) := by
  rw [always_eq effect (s.setRk rk), heffect]
  exact State.sameView_setRk (s := always effect s) (hvalid.trans hv) rk

/-- KEYEXP overwrites RK, a command without a need of round keys does not read it, and the others fail. -/
theorem exec_sameOutcome (i : Instr) : sameOutcome (exec i s) (exec i (s.setRk rk)) := by
  cases i with
  | keyexp => exact sameOutcome_refl (exec .keyexp s)
  | nop | subbytes | invSubbytes | shiftrows | invShiftrows | mixcolumns | invMixcolumns | gfmul =>
    exact always_sameView hv rk rfl rfl
  | rkread | addroundkey | ecbEnc | ecbDec | cbcEnc | cbcDec | ctrXcrypt =>
    exact withSchedule_sameView hv rk _ _ _

theorem runCommand_sameOutcome (w : Word32) : sameOutcome (runCommand w s) (runCommand w (s.setRk rk)) := by
  cases hd : decodeWord w with
  | command i =>
    rw [runCommand_command hd, runCommand_command hd]
    exact exec_sameOutcome hv rk i
  | illegal why =>
    rw [runCommand_illegal hd, runCommand_illegal hd]
    exact State.sameView_setRk (s := raiseCmdError .illegal s) hv rk

theorem busWrite_sameOutcome (n : Nat) (o : BitVec 8) (v : Word32) :
    sameOutcome (busWrite n o v s) (busWrite n o v (s.setRk rk)) := by
  unfold busWrite
  split
  · exact runCommand_sameOutcome hv rk v
  · rw [storeLanes_setRk]
    exact State.sameView_setRk (storeLanes_keeps_notValid hv) rk

theorem hostEvent_sameOutcome (e : HostEvent) : sameOutcome (hostEvent e s) (hostEvent e (s.setRk rk)) := by
  cases e with
  | reset => exact sameOutcome_refl (.next (takeReset s))
  | access a =>
    simp only [hostEvent, hostAccess]
    split
    · cases a with
      | read n o => exact State.sameView_setRk (s := s.recordRead (busRead s n o)) hv rk
      | write n o v => exact busWrite_sameOutcome hv rk n o v
    · exact sameOutcome_refl (.fault .busError)

theorem step_sameOutcome : sameOutcome (step s) (step (s.setRk rk)) := by
  simp only [step, hostStep, State.setRk_pending]
  split
  · exact sameOutcome_refl (.fault .endOfRun)
  · next e rest _ => exact hostEvent_sameOutcome (s := s.setPending rest) hv rk e

end

/-- Settles O59: related states are equal, or differ in an RK that no read shows and that no command reads before KEYEXP has
written it. -/
theorem unspecifiedRoundKeysUnobserved : Obligations.UnspecifiedRoundKeysUnobserved := by
  intro s t h
  rcases State.sameView_cases h with rfl | ⟨hv, ht⟩
  · exact ⟨fun _ => rfl, sameOutcome_refl (step s)⟩
  · rw [ht]
    exact ⟨fun x => (readByte_setRk s t.rk x).symm, step_sameOutcome hv t.rk⟩

end Sys2Proof.Machine
end

section
/-! PROOFS. What every byte of the window reads and stores, the lanes and the refusals of host accesses, the window bytes a
command keeps, and when a run ends normally (20_memory.md R200 to R210; 70_reset_and_hazards.md R710). -/

namespace Sys2Proof.Machine

/-! ### The register map, read backwards -/

/-- The offsets at which a byte of the register map stands (20_memory.md R201, R204). -/
def WindowByte.standsAt (w : WindowByte) (n : Nat) : Prop :=
  match w with
  | .ctrl => n = 0x00
  | .statusErr => n = 0x04
  | .statusRkValid => n = 0x05
  | .command => 0x08 ≤ n ∧ n < 0x0C
  | .gfA => n = 0x0C
  | .gfB => n = 0x0D
  | .gfP => n = 0x0E
  | .key i => n = 0x10 + i.val
  | .iv i => n = 0x20 + i.val
  | .din i => n = 0x30 + i.val
  | .dout i => n = 0x40 + i.val
  | .st i => n = 0x50 + i.val
  | .reserved => n = 0x01 ∨ n = 0x02 ∨ n = 0x03 ∨ n = 0x06 ∨ n = 0x07 ∨ n = 0x0F ∨ 0x60 ≤ n

theorem standsAt_controlByte {n : Nat} (hn : n < 0x10) : (controlByte n).standsAt n := by
  interval_cases n <;> simp [controlByte, WindowByte.standsAt]

theorem standsAt_windowByte (x : BitVec 8) : (windowByte x).standsAt x.toNat := by
  unfold windowByte
  split
  · exact standsAt_controlByte (by omega)
  all_goals
    simp only [WindowByte.standsAt, Fin.val_ofNat, imp_false] at *
    omega

/-- What the register map says of an offset says which offset it is. -/
theorem offset_of_windowByte {x : BitVec 8} {w : WindowByte} (h : windowByte x = w) : w.standsAt x.toNat :=
  h ▸ standsAt_windowByte x

/-! ### One host access, case by case -/

/-- An admitted read is the one recorded value (20_memory.md R207). -/
theorem hostAccess_read {n : Nat} {o : BitVec 8} (h : admitted (.read n o) = true) (s : State) :
    hostAccess (.read n o) s = .next (s.recordRead (busRead s n o)) := by
  simp [hostAccess, h]

/-- A refused access is the bus error, whatever the state (20_memory.md R209). -/
theorem hostAccess_refused {a : Access} (h : admitted a = false) (s : State) : hostAccess a s = .fault .busError := by
  simp [hostAccess, h]

/-- An admitted write to CMD is the command (20_memory.md R206). -/
theorem hostAccess_command {n : Nat} {o : BitVec 8} {v : Word32} (h : admitted (.write n o v) = true)
    (hc : windowByte o = .command) (s : State) : hostAccess (.write n o v) s = runCommand v s := by
  simp [hostAccess, h, busWrite, hc]

/-- An admitted write elsewhere is its byte writes (20_memory.md R206). -/
theorem hostAccess_store {n : Nat} {o : BitVec 8} {v : Word32} (h : admitted (.write n o v) = true)
    (hc : windowByte o ≠ .command) (s : State) : hostAccess (.write n o v) s = .next (storeLanes n o v s) := by
  simp [hostAccess, h, busWrite, hc]

/-! ### What each byte reads and stores -/

/-- Settles O7: the register map gives the value read at each offset, and a read only records its value. -/
theorem readValueOfEachByte : Obligations.ReadValueOfEachByte := by
  refine ⟨fun s x => ?_, fun s t n o h => ?_⟩
  · intro n
    unfold readByte
    cases hw : windowByte x with
    | ctrl | statusErr | statusRkValid | gfA | gfB | gfP =>
      have hn : n = _ := offset_of_windowByte hw
      rw [hn]
      rfl
    | command =>
      have hn : _ ∧ _ := offset_of_windowByte hw
      simp (disch := omega) only [if_pos, if_neg]
    | key i | iv i | din i | dout i | st i =>
      have hn : n = _ := offset_of_windowByte hw
      simp (disch := omega) only [if_pos, if_neg]
      simp [hn]
    | reserved =>
      have hn := offset_of_windowByte hw
      rcases hn with hn | hn | hn | hn | hn | hn | hn <;> simp (disch := omega) only [if_pos, if_neg]
  · cases hadm : admitted (.read n o) with
    | false => rw [hostAccess_refused hadm] at h; cases h
    | true =>
      rw [hostAccess_read hadm] at h
      exact Host.Outcome.next.inj h ▸ rfl

/-- Settles O8: by the register map; the two rules agree on CTRL, GF.A, GF.B, KEY, IV, DIN and ST, and every other byte but
CMD ignores its write. -/
theorem writeEffectOfEachByte : Obligations.WriteEffectOfEachByte := by
  intro s x d n hrange
  unfold writeByte
  cases hw : windowByte x with
  | ctrl | statusErr | statusRkValid | gfA | gfB | gfP =>
    have hn : n = _ := offset_of_windowByte hw
    rw [hn]
    rfl
  | command =>
    have hn : _ ∧ _ := offset_of_windowByte hw
    omega
  | key i | iv i | din i | st i =>
    have hn : n = _ := offset_of_windowByte hw
    simp (disch := omega) only [if_pos, if_neg]
    simp [hn]
    rfl
  | dout i =>
    have hn : n = _ := offset_of_windowByte hw
    simp (disch := omega) only [if_pos, if_neg]
  | reserved =>
    have hn := offset_of_windowByte hw
    rcases hn with hn | hn | hn | hn | hn | hn | hn <;> simp (disch := omega) only [if_pos, if_neg]

/-- A write of one byte of the window leaves every other byte as it read, but RK_VALID, which a KEY write clears
(20_memory.md R207, R208). -/
theorem readByte_writeByte_of_ne {x y : BitVec 8} (hne : windowByte y ≠ windowByte x) (hvalid : windowByte y ≠ .statusRkValid)
    (d : Byte) (s : State) : readByte (writeByte x d s) y = readByte s y := by
  unfold readByte writeByte
  cases hx : windowByte x with
  | statusErr | statusRkValid | command | gfP | dout | reserved => rfl
  | ctrl | gfA | gfB | key | iv | din | st =>
    cases hy : windowByte y <;> simp_all [writeKeyByte_eq, Block.byte_setByte]

/-- Byte `i` of one of the 16-byte registers the host can write (20_memory.md R201). -/
def WindowByte.IsStored (w : WindowByte) (i : Fin 16) : Prop := w = .key i ∨ w = .iv i ∨ w = .din i ∨ w = .st i

/-- The registers KEY, IV, DIN and ST fill the offsets 0x10 to 0x3F and 0x50 to 0x5F (20_memory.md R201). -/
theorem windowByte_of_storedBlock {x : BitVec 8}
    (hx : (0x10 ≤ x.toNat ∧ x.toNat < 0x40) ∨ (0x50 ≤ x.toNat ∧ x.toNat < 0x60)) :
    ∃ i, (windowByte x).IsStored i := by
  cases hw : windowByte x with
  | key i | iv i | din i | st i => exact ⟨i, by simp [WindowByte.IsStored]⟩
  | _ =>
    have hn := offset_of_windowByte hw
    simp only [WindowByte.standsAt] at hn
    omega

/-- The bytes of KEY, IV, DIN and ST read back what was written (20_memory.md R207, R208). -/
theorem readByte_writeByte_self {x : BitVec 8} {i : Fin 16} (hx : (windowByte x).IsStored i) (d : Byte) (s : State) :
    readByte (writeByte x d s) x = d := by
  rcases hx with hx | hx | hx | hx <;> simp [readByte, writeByte, hx, writeKeyByte_eq]

/-- No two offsets are the same byte of KEY, IV, DIN or ST. -/
theorem windowByte_inj_of_storedBlock {x y : BitVec 8} {i : Fin 16} (hx : (windowByte x).IsStored i)
    (hyx : windowByte y = windowByte x) : y = x := by
  apply BitVec.eq_of_toNat_eq
  rcases hx with hx | hx | hx | hx <;>
    exact (offset_of_windowByte (hyx.trans hx)).trans (offset_of_windowByte hx : x.toNat = _).symm

/-- Settles O13: the written byte is the only one of the window at its place of the register map, and RK_VALID is cleared by
a write to KEY alone. -/
theorem writtenByteReadsBack : Obligations.WrittenByteReadsBack := by
  intro s x y d hx
  obtain ⟨i, hi⟩ := windowByte_of_storedBlock hx
  refine ⟨readByte_writeByte_self hi d s, ?_, fun hyx hy5 => ?_⟩
  · change flagByte (writeByte x d s).rkValid = if x.toNat < 0x20 then 0x00 else flagByte s.rkValid
    have hkey : (0x10 ≤ x.toNat ∧ x.toNat ≤ 0x1F) ↔ x.toNat < 0x20 := by omega
    rw [writeByte_rkValid, if_congr hkey rfl rfl, apply_ite flagByte]
    rfl
  · refine readByte_writeByte_of_ne (fun h => hyx (windowByte_inj_of_storedBlock hi h)) (fun h => hy5 ?_) d s
    exact BitVec.eq_of_toNat_eq (offset_of_windowByte h)

/-! ### Byte lanes and refusals -/

/-- A bus word is the OR of its bytes, each shifted to its lane (20_memory.md R205). -/
theorem joinLanes_eq_or (d0 d1 d2 d3 : Byte) :
    joinLanes d0 d1 d2 d3 =
      d0.setWidth 32 ||| (d1.setWidth 32 <<< 8) ||| (d2.setWidth 32 <<< 16) ||| (d3.setWidth 32 <<< 24) := by
  apply BitVec.eq_of_getLsbD_eq
  intro i hi
  simp only [joinLanes, BitVec.getLsbD_append, BitVec.getLsbD_or, BitVec.getLsbD_shiftLeft, BitVec.getLsbD_setWidth]
  grind

/-- Lane `k` of a bus word is its byte `k` (20_memory.md R205). -/
theorem lane_joinLanes (f : Fin 4 → Byte) (k : Fin 4) : lane (joinLanes (f 0) (f 1) (f 2) (f 3)) k.val = f k := by
  apply BitVec.eq_of_getLsbD_eq
  intro i hi
  rw [lane, BitVec.getLsbD_extractLsb', joinLanes_eq_or]
  simp only [BitVec.getLsbD_or, BitVec.getLsbD_shiftLeft, BitVec.getLsbD_setWidth]
  fin_cases k <;> grind

/-- A 1-byte access has its byte in lane 0 (20_memory.md R205). -/
theorem lane_zero_setWidth (d : Byte) : lane (d.setWidth 32) 0 = d := by
  apply BitVec.eq_of_getLsbD_eq
  intro i hi
  simp [lane, hi, show i < 32 by omega]

theorem widthAdmitted_one (o : BitVec 8) : widthAdmitted 1 o = true := rfl

theorem widthAdmitted_four {o : BitVec 8} (ho : o.toNat % 4 = 0) : widthAdmitted 4 o = true := by
  simp [widthAdmitted, ho]

/-- A write outside CMD is admitted by its width and alignment alone (20_memory.md R209). -/
theorem admitted_write_of_not_command {n : Nat} {o : BitVec 8} (hwidth : widthAdmitted n o = true)
    (hc : windowByte o ≠ .command) (v : Word32) : admitted (.write n o v) = true := by
  simp [admitted, hwidth, hc]

/-- An access is refused by the bus error, and by nothing else (20_memory.md R209). -/
theorem hostAccess_busError_iff (a : Access) (s : State) : hostAccess a s = .fault .busError ↔ admitted a = false := by
  refine ⟨fun h => ?_, fun h => hostAccess_refused h s⟩
  rcases hostAccess_cases a s with ⟨hadm, _⟩ | ⟨_, n, o, rfl, ha⟩ | ⟨_, n, o, v, rfl, _, ha⟩ | ⟨_, n, o, v, rfl, _, ha⟩
  · exact hadm
  · cases ha.symm.trans h
  · obtain ⟨t, ht⟩ := runCommand_next v s
    cases ht.symm.trans (ha.symm.trans h)
  · cases ha.symm.trans h

/-- An admitted access completes (20_memory.md R209, R213). -/
theorem hostAccess_next {a : Access} (hadm : admitted a = true) (s : State) : ∃ t, hostAccess a s = .next t := by
  rcases hostAccess_cases a s with ⟨hno, _⟩ | ⟨_, n, o, rfl, ha⟩ | ⟨_, n, o, v, rfl, _, ha⟩ | ⟨_, n, o, v, rfl, _, ha⟩
  · cases hno.symm.trans hadm
  · exact ⟨_, ha⟩
  · exact ha ▸ runCommand_next v s
  · exact ⟨_, ha⟩

theorem admitted_read_eq_false (n : Nat) (o : BitVec 8) :
    admitted (.read n o) = false ↔ (n ≠ 1 ∧ n ≠ 4) ∨ (n = 4 ∧ o.toNat % 4 ≠ 0) := by
  simp only [admitted, widthAdmitted, Bool.or_eq_false_iff, Bool.and_eq_false_iff, beq_eq_false_iff_ne]
  omega

theorem admitted_write_eq_false (n : Nat) (o : BitVec 8) (v : Word32) :
    admitted (.write n o v) = false ↔
      (n ≠ 1 ∧ n ≠ 4) ∨ (n = 4 ∧ o.toNat % 4 ≠ 0) ∨ (n = 1 ∧ 0x08 ≤ o.toNat ∧ o.toNat ≤ 0x0B) := by
  rw [← windowByte_command o, ← or_assoc, ← admitted_read_eq_false]
  simp only [admitted, Bool.and_eq_false_iff, Bool.not_eq_false', Bool.and_eq_true, beq_iff_eq]

/-- Settles O9: both widths are admitted there, and a bus word is the OR of its shifted bytes. -/
theorem readLanesLittleEndian : Obligations.ReadLanesLittleEndian := by
  intro s o
  refine ⟨fun ho => ?_, hostAccess_read (widthAdmitted_one o) s⟩
  rw [hostAccess_read (widthAdmitted_four ho), ← joinLanes_eq_or]
  rfl

/-- Settles O10: an admitted write at CMD is the 4-byte one at 0x08, and elsewhere its lanes are stored one by one. -/
theorem writeLanesLittleEndian : Obligations.WriteLanesLittleEndian := by
  intro s n o v
  refine ⟨fun hno => hostAccess_refused hno s, fun hadm => ⟨fun hin => ?_, fun hout => ?_⟩⟩
  · have hc := (windowByte_command o).2 hin
    have hn := mt (admitted_write_eq_false n o v).2 (ne_false_of_eq_true hadm)
    exact ⟨by omega, offset_of_command_write hadm hc, hostAccess_command hadm hc s⟩
  · have hc : windowByte o ≠ .command := fun h => by have := (windowByte_command o).1 h; omega
    rw [hostAccess_store hadm hc]
    rcases admitted_width (Bool.and_eq_true_iff.1 hadm).1 with rfl | ⟨rfl, _⟩
    · exact .inl ⟨rfl, congrArg _ (storeLanes_one o v s)⟩
    · exact .inr ⟨rfl, congrArg _ (storeLanes_four o v s)⟩

/-- Settles O11: an access ends in the bus error exactly if it is not admitted, and completes if it is. -/
theorem accessRefusedExactly : Obligations.AccessRefusedExactly := by
  intro s n o v
  refine ⟨?_, ?_, fun a ha => ?_⟩
  · rw [hostAccess_busError_iff, admitted_read_eq_false]
  · rw [hostAccess_busError_iff, admitted_write_eq_false]
  · rw [ne_eq, hostAccess_busError_iff, Bool.not_eq_false] at ha
    exact hostAccess_next ha s

/-- 1-byte writes of the lanes of `v`, none of them to CMD, are the byte writes of R206. -/
theorem accessAll_byteWrites (o : BitVec 8) (v : Word32) (ks : List Nat)
    (hc : ∀ k ∈ ks, windowByte (o + BitVec.ofNat 8 k) ≠ .command) (s : State) :
    accessAll (ks.map fun k => .write 1 (o + BitVec.ofNat 8 k) ((lane v k).setWidth 32)) s =
      .next (ks.foldl (fun u k => writeByte (o + BitVec.ofNat 8 k) (lane v k) u) s) := by
  induction ks generalizing s with
  | nil => rfl
  | cons k ks ih =>
    have hk := hc k List.mem_cons_self
    have hadm := admitted_write_of_not_command (widthAdmitted_one _) hk ((lane v k).setWidth 32)
    simp only [List.map_cons, accessAll, hostAccess_store hadm hk, storeLanes_one, lane_zero_setWidth, List.foldl_cons]
    exact ih (fun j hj => hc j (List.mem_cons_of_mem k hj)) _

/-- Only the aligned offset 0x08 has bytes of CMD (20_memory.md R201). -/
theorem windowByte_add_ne_command {o : BitVec 8} (ho : o.toNat % 4 = 0) (h8 : o ≠ 0x08) {k : Nat} (hk : k < 4) :
    windowByte (o + BitVec.ofNat 8 k) ≠ .command := by
  intro h
  have hin := (windowByte_command _).1 h
  have hlt := o.isLt
  rw [BitVec.toNat_add, BitVec.toNat_ofNat, Nat.mod_eq_of_lt (a := k) (by omega), Nat.mod_eq_of_lt (by omega)] at hin
  apply h8
  apply BitVec.eq_of_toNat_eq
  change o.toNat = 8
  omega

/-- Settles O12: reads by the lanes of the word, writes by the byte writes both forms stand for, and CMD by its refusals. -/
theorem mixedWidthsSeeOneArray : Obligations.MixedWidthsSeeOneArray := by
  intro s o v ho
  refine ⟨⟨_, rfl, fun k => ?_⟩, fun h8 => ?_, ?_⟩
  · have hlane := lane_joinLanes (fun k => readByte s (o + BitVec.ofNat 8 k.val)) k
    have h0 : o + BitVec.ofNat 8 (0 : Fin 4).val = o := BitVec.add_zero o
    simp only [h0] at hlane
    exact congrArg BusValue.byte hlane.symm
  · have hc : ∀ k ∈ [0, 1, 2, 3], windowByte (o + BitVec.ofNat 8 k) ≠ .command := fun k hk =>
      windowByte_add_ne_command ho h8 (by simp at hk; omega)
    have hfirst : windowByte o ≠ .command := by simpa using hc 0 (by simp)
    rw [hostAccess_store (admitted_write_of_not_command (widthAdmitted_four ho) hfirst v) hfirst]
    exact accessAll_byteWrites o v [0, 1, 2, 3] hc s
  · rintro rfl
    refine ⟨rfl, fun k => hostAccess_refused ?_ s⟩
    fin_cases k <;> rfl

/-- Settles O17: by the bounds of the window. -/
theorem windowAtAesBase : Obligations.WindowAtAesBase := by
  intro base addr
  refine ⟨fun o => ?_, ?_⟩
  · have hin : base ≤ base + o.toNat ∧ base + o.toNat < base + 256 := by omega
    rw [windowOffset, if_pos hin, Nat.add_sub_cancel_left, BitVec.ofNat_toNat, BitVec.setWidth_eq]
  · rw [windowOffset, ite_eq_right_iff]
    simp only [reduceCtorEq, imp_false]
    omega

/-! ### What a command leaves as it was -/

/-- A command that uses the round keys keeps whatever its effect keeps and STATUS.ERR has no part in. -/
theorem withSchedule_frame {α : Type} {f : State → α} (herr : ∀ u e, f (State.setErr u e) = f u) {effect : State → State}
    {s : State} (heffect : f (effect s) = f s) (fieldOk : Bool) (e : CmdStatus) :
    f (withSchedule fieldOk e effect s) = f s := by
  rcases withSchedule_cases fieldOk e effect s with ⟨_, h⟩ | ⟨_, _, h⟩ | ⟨_, _, h⟩ <;> rw [h]
  · exact herr s _
  · exact herr s _
  · exact (herr (effect s) _).trans heffect

/-- The 16 offsets of a block register (20_memory.md R201, R204). -/
theorem offsetIn_of_blockReg {r : RegName} (hr : isBlockReg r = true) {x : BitVec 8} {i : Fin 16}
    (hn : x.toNat = regOffset r + i.val) : offsetIn r x := by
  rw [offsetIn, if_pos hr]
  omega

section

variable {x : BitVec 8} {s : State}

theorem readByte_setErr (hx : x ≠ 0x04) (s : State) (e : Byte) : readByte (s.setErr e) x = readByte s x := by
  unfold readByte
  cases hw : windowByte x with
  | statusErr => exact (hx (BitVec.eq_of_toNat_eq (offset_of_windowByte hw))).elim
  | _ => rfl

theorem readByte_setRkValid (hx : x ≠ 0x05) (v : Bool) : readByte (s.setRkValid v) x = readByte s x := by
  unfold readByte
  cases hw : windowByte x with
  | statusRkValid => exact (hx (BitVec.eq_of_toNat_eq (offset_of_windowByte hw))).elim
  | _ => rfl

theorem readByte_setGfP (hx : x ≠ 0x0E) (v : Byte) : readByte (s.setGfP v) x = readByte s x := by
  unfold readByte
  cases hw : windowByte x with
  | gfP => exact (hx (BitVec.eq_of_toNat_eq (offset_of_windowByte hw))).elim
  | _ => rfl

theorem readByte_setDout (hx : ¬ offsetIn .dout x) (v : Block) : readByte (s.setDout v) x = readByte s x := by
  unfold readByte
  cases hw : windowByte x with
  | dout i => exact (hx (offsetIn_of_blockReg rfl (offset_of_windowByte hw))).elim
  | _ => rfl

theorem readByte_setSt (hx : ¬ offsetIn .st x) (v : Block) : readByte (s.setSt v) x = readByte s x := by
  unfold readByte
  cases hw : windowByte x with
  | st i => exact (hx (offsetIn_of_blockReg rfl (offset_of_windowByte hw))).elim
  | _ => rfl

/-- A new IV shows only at the bytes in which it differs. -/
theorem readByte_setIv {v : Block} (hv : ∀ i : Fin 16, x.toNat = 0x20 + i.val → v.byte i = s.iv.byte i) :
    readByte (s.setIv v) x = readByte s x := by
  unfold readByte
  cases hw : windowByte x with
  | iv i => exact hv i (offset_of_windowByte hw)
  | _ => rfl

end

/-- CTR_XCRYPT keeps the nonce half of IV (44_modes.md R514). -/
theorem advanceCounter_byte (iv : Block) (le : Bool) (i : Fin 8) :
    (advanceCounter iv le).byte (i.castLE (by decide)) = iv.byte (i.castLE (by decide)) := by
  fin_cases i <;> rfl

/-- Settles O20: each effect writes its own registers, and a failed command only STATUS.ERR. -/
theorem commandsKeepOtherWindowBytes : Obligations.CommandsKeepOtherWindowBytes := by
  intro i s t x h hx hi
  have herr := readByte_setErr hx
  cases i <;> obtain rfl := Host.Outcome.next.inj h
  case nop => exact herr _ _
  case keyexp => exact (herr _ _).trans (readByte_setRkValid hi true)
  case gfmul => exact (herr _ _).trans (readByte_setGfP hi _)
  case subbytes | invSubbytes | shiftrows | invShiftrows | mixcolumns | invMixcolumns =>
    exact (herr _ _).trans (readByte_setSt hi _)
  case rkread | addroundkey =>
    exact withSchedule_frame (f := (readByte · x)) herr (readByte_setSt hi _) _ _
  case ecbEnc | ecbDec =>
    exact withSchedule_frame (f := (readByte · x)) herr (readByte_setDout hi _) _ _
  case cbcEnc | cbcDec =>
    obtain ⟨hdout, hiv⟩ := hi
    refine withSchedule_frame (f := (readByte · x)) herr ?_ _ _
    exact (readByte_setIv fun i hn => (hiv (offsetIn_of_blockReg rfl hn)).elim).trans (readByte_setDout hdout _)
  case ctrXcrypt =>
    obtain ⟨hdout, hcounter⟩ := hi
    refine withSchedule_frame (f := (readByte · x)) herr ?_ _ _
    refine (readByte_setIv fun i hn => ?_).trans (readByte_setDout hdout _)
    exact advanceCounter_byte s.iv s.ctrLe ⟨i.val, by omega⟩

/-! ### Runs -/

/-- The host's side of the interface: the events still to come and the values read (log entry 3). -/
def State.hostSide (s : State) : List HostEvent × List BusValue := (s.pending, s.reads)

/-- No command touches the host's side. -/
theorem exec_hostSide {i : Instr} {s t : State} (h : exec i s = .next t) : t.hostSide = s.hostSide := by
  cases i <;> obtain rfl := Host.Outcome.next.inj h
  case nop | keyexp | subbytes | invSubbytes | shiftrows | invShiftrows | mixcolumns | invMixcolumns | gfmul => rfl
  case rkread | addroundkey | ecbEnc | ecbDec | cbcEnc | cbcDec | ctrXcrypt =>
    exact withSchedule_frame (f := State.hostSide) (fun _ _ => rfl) rfl _ _

theorem runCommand_hostSide {w : Word32} {s t : State} (h : runCommand w s = .next t) : t.hostSide = s.hostSide := by
  cases hd : decodeWord w with
  | command i => exact exec_hostSide (runCommand_command hd s ▸ h)
  | illegal why =>
    rw [runCommand_illegal hd] at h
    exact Host.Outcome.next.inj h ▸ rfl

theorem storeLanes_hostSide (n : Nat) (o : BitVec 8) (v : Word32) (s : State) :
    (storeLanes n o v s).hostSide = s.hostSide := by
  refine storeLanes_induction (P := fun u => u.hostSide = s.hostSide) (fun x d u hu => ?_) n o v rfl
  obtain ⟨_, _, _, _, hpending, hreads, _⟩ := writeByte_keeps x d u
  exact (Prod.ext hpending hreads).trans hu

/-- A step with an event left ends in the bus error on a refused access. Any other completes: it takes its event off the
list, and adds one value to those read exactly if the event is a read. -/
theorem step_of_pending_cons {s : State} {e : HostEvent} {rest : List HostEvent} (hp : s.pending = e :: rest) :
    ((∃ a, e = .access a ∧ admitted a = false) ∧ step s = .fault .busError) ∨
    ((∀ a, e = .access a → admitted a = true) ∧
      ∃ t, step s = .next t ∧ t.pending = rest ∧ t.reads.length = s.reads.length + [e].countP isReadEvent) := by
  have hstep : step s = hostEvent e (s.setPending rest) := by simp [step, hostStep, hp]
  rw [hstep]
  cases e with
  | reset => exact .inr ⟨by simp, _, rfl, rfl, rfl⟩
  | access a =>
    rcases hostAccess_cases a (s.setPending rest) with
      ⟨hadm, ha⟩ | ⟨hadm, n, o, rfl, ha⟩ | ⟨hadm, n, o, v, rfl, _, ha⟩ | ⟨hadm, n, o, v, rfl, _, ha⟩
    · exact .inl ⟨⟨a, rfl, hadm⟩, ha⟩
    · exact .inr ⟨by simp [hadm], _, ha, rfl, by simp [isReadEvent]⟩
    · obtain ⟨t, ht⟩ := runCommand_next v (s.setPending rest)
      obtain ⟨hpending, hreads⟩ := Prod.ext_iff.1 (runCommand_hostSide ht)
      exact .inr ⟨by simp [hadm], t, ha.trans ht, hpending, congrArg List.length hreads⟩
    · obtain ⟨hpending, hreads⟩ := Prod.ext_iff.1 (storeLanes_hostSide n o v (s.setPending rest))
      exact .inr ⟨by simp [hadm], _, ha, hpending, congrArg List.length hreads⟩

/-- A run goes on from the state its first step answers. -/
theorem run_succ_of_next {M : Host.Core} {s t : M.State} (hstep : M.step s = .next t) (k : Nat) :
    M.run (k + 1) s = M.run k t := by
  rw [Host.Core.run, hstep]

/-- A run ends at its first fault. -/
theorem run_succ_of_fault {M : Host.Core} {s : M.State} {r : M.Fault} (hstep : M.step s = .fault r) (k : Nat) :
    M.run (k + 1) s = .fault r := by
  rw [Host.Core.run, hstep]

theorem runPending_of_next {s t : State} {e : HostEvent} {rest : List HostEvent} (hp : s.pending = e :: rest)
    (hstep : step s = .next t) (ht : t.pending = rest) : runPending s = runPending t := by
  rw [runPending, runPending, hp, ht]
  exact run_succ_of_next (M := Sys2Proof.core) hstep rest.length

theorem runPending_of_fault {s : State} {r : Fault} {e : HostEvent} {rest : List HostEvent} (hp : s.pending = e :: rest)
    (hstep : step s = .fault r) : runPending s = .fault r := by
  rw [runPending, hp]
  exact run_succ_of_fault (M := Sys2Proof.core) hstep rest.length

/-- Settles O60: by induction on the events still to come, with what the first step does (`step_of_pending_cons`). -/
theorem runsFaultOnlyOnRefusedAccess : Obligations.RunsFaultOnlyOnRefusedAccess := by
  intro s
  simp only [State.pendingAdmitted]
  generalize hp : s.pending = events
  induction events generalizing s with
  | nil =>
    refine ⟨fun _ => ⟨s, ?_, hp, rfl⟩, fun hno => absurd (by simp) hno⟩
    rw [runPending, hp]
    rfl
  | cons e rest ih =>
    rcases step_of_pending_cons hp with ⟨⟨a, rfl, hadm⟩, hstep⟩ | ⟨hadm, t, hstep, htp, hreads⟩
    · refine ⟨fun hall => ?_, fun _ => runPending_of_fault hp hstep⟩
      cases hadm.symm.trans (hall a List.mem_cons_self)
    · obtain ⟨hrun, hfault⟩ := ih t htp
      rw [runPending_of_next hp hstep htp]
      refine ⟨fun hall => ?_, fun hno => hfault fun hall => hno fun a ha => ?_⟩
      · obtain ⟨u, hu, hup, hulen⟩ := hrun fun a ha => hall a (List.mem_cons_of_mem e ha)
        refine ⟨u, hu, hup, ?_⟩
        rw [hulen, hreads, Nat.add_assoc, ← List.countP_append]
        rfl
      · rcases List.mem_cons.1 ha with he | ha
        · exact hadm a he.symm
        · exact hall a ha

end Sys2Proof.Machine
end

section
/-! PROOFS. The command word and its fields, decoding and encoding as inverses of each other, illegal words, and the accesses
that the assembler's lines stand for (30_encoding.md R300 to R312). -/

namespace Sys2Proof.Machine

/-! ### The rows of the opcode map -/

/-- RKREAD and ADDROUNDKEY are the commands with RIDX (30_encoding.md R305). -/
theorem usesRidx_iff (m : Mnemonic) : usesRidx m = true ↔ m = .rkread ∨ m = .addroundkey := by
  cases m <;> decide

/-- The mode commands are the commands with LEN (30_encoding.md R305). -/
theorem usesLen_iff (m : Mnemonic) :
    usesLen m = true ↔ m = .ecbEnc ∨ m = .ecbDec ∨ m = .cbcEnc ∨ m = .cbcDec ∨ m = .ctrXcrypt := by
  cases m <;> decide

/-- A row fixes its OP, and every bit above it to 0 (30_encoding.md R305). -/
theorem fixedBits_eq_op (m : Mnemonic) : m.fixedBits = m.op.setWidth 32 := by
  cases m <;> rfl

/-- A row leaves free the bits of the fields its command uses, and no others (30_encoding.md R304, R305). -/
theorem not_mask (m : Mnemonic) :
    ~~~ m.mask = (if usesRidx m then 0x00000F00 else 0) ||| (if usesLen m then 0x001F0000 else 0) := by
  cases m <;> decide

/-- No two rows of the opcode map have the same OP (30_encoding.md R306). -/
theorem op_injective : Function.Injective Mnemonic.op := fun _ m h =>
  Option.some.inj ((mnemonicOf_eq_some.2 h).symm.trans (mnemonicOf_eq_some.2 (rfl : m.op = m.op)))

theorem ridx_command (m : Mnemonic) (ridx len : Nat) : (m.command ridx len).ridx = if usesRidx m then ridx else 0 := by
  cases m <;> rfl

theorem len_command (m : Mnemonic) (ridx len : Nat) : (m.command ridx len).len = if usesLen m then len else 0 := by
  cases m <;> rfl

/-- A command is its row with its operands. -/
theorem command_mnemonic (i : Instr) : i.mnemonic.command i.ridx i.len = i := by
  cases i <;> rfl

/-- A command is well-formed exactly if both operands fit; the ones it does not use are 0. -/
theorem wf_iff (i : Instr) : i.wf = true ↔ i.ridx < 16 ∧ i.len < 32 := by
  cases i <;> simp [Instr.wf, Instr.ridx, Instr.len, ridxFits, lenFits]

/-! ### The fields of a command word -/

/-- The command word is `OP | ridx << 8 | len << 16` (30_encoding.md R310). -/
theorem encode_eq (i : Instr) :
    encode i = i.mnemonic.op.setWidth 32 ||| (BitVec.ofNat 32 i.ridx <<< 8) ||| (BitVec.ofNat 32 i.len <<< 16) := by
  rw [encode, fixedBits_eq_op]

/-- Bits 11:8 of a command word are its RIDX (30_encoding.md R301). -/
theorem ridxField_encode {i : Instr} (hridx : i.ridx < 16) : ridxField (encode i) = i.ridx := by
  have hbits : (encode i).extractLsb' 8 4 = BitVec.ofNat 4 i.ridx := by
    apply BitVec.eq_of_getLsbD_eq
    intro k hk
    rw [encode_eq]
    simp only [BitVec.getLsbD_extractLsb', BitVec.getLsbD_or, BitVec.getLsbD_shiftLeft, BitVec.getLsbD_setWidth,
      BitVec.getLsbD_ofNat]
    grind
  rw [ridxField, hbits, BitVec.toNat_ofNat, Nat.mod_eq_of_lt hridx]

/-- Bits 20:16 of a command word are its LEN (30_encoding.md R301). -/
theorem lenField_encode {i : Instr} (hridx : i.ridx < 16) (hlen : i.len < 32) : lenField (encode i) = i.len := by
  have hbits : (encode i).extractLsb' 16 5 = BitVec.ofNat 5 i.len := by
    apply BitVec.eq_of_getLsbD_eq
    intro k hk
    have hridx8 : i.ridx.testBit (8 + k) = false :=
      Nat.testBit_lt_two_pow (hridx.trans_le (Nat.pow_le_pow_right (n := 2) (i := 4) (by decide) (by omega)))
    rw [encode_eq]
    simp only [BitVec.getLsbD_extractLsb', BitVec.getLsbD_or, BitVec.getLsbD_shiftLeft, BitVec.getLsbD_setWidth,
      BitVec.getLsbD_ofNat]
    grind
  rw [lenField, hbits, BitVec.toNat_ofNat, Nat.mod_eq_of_lt hlen]

/-- The bits of a field of a word are its value, shifted to its place. -/
theorem and_fieldMask (w : Word32) (start len : Nat) :
    w &&& ((BitVec.allOnes len).setWidth 32 <<< start) = (w.extractLsb' start len).setWidth 32 <<< start := by
  apply BitVec.eq_of_getLsbD_eq
  intro k hk
  simp only [BitVec.getLsbD_and, BitVec.getLsbD_shiftLeft, BitVec.getLsbD_setWidth, BitVec.getLsbD_allOnes,
    BitVec.getLsbD_extractLsb']
  grind

/-- Bits 11:8 of a word (30_encoding.md R301). -/
theorem and_ridxMask (w : Word32) : w &&& 0x00000F00 = BitVec.ofNat 32 (ridxField w) <<< 8 := by
  rw [ridxField, BitVec.ofNat_toNat]
  exact and_fieldMask w 8 4

/-- Bits 20:16 of a word (30_encoding.md R301). -/
theorem and_lenMask (w : Word32) : w &&& 0x001F0000 = BitVec.ofNat 32 (lenField w) <<< 16 := by
  rw [lenField, BitVec.ofNat_toNat]
  exact and_fieldMask w 16 5

/-- The command of a row with the operands of a word has the row's fixed bits and the word's other bits. -/
theorem encode_command_fields (m : Mnemonic) (w : Word32) :
    encode (m.command (ridxField w) (lenField w)) = m.fixedBits ||| (w &&& ~~~ m.mask) := by
  rw [encode, mnemonic_command, ridx_command, len_command, not_mask, BitVec.and_or_distrib_left, BitVec.or_assoc]
  cases usesRidx m <;> cases usesLen m <;> simp [← and_ridxMask, ← and_lenMask]

/-! ### Decoding and encoding -/

/-- A word that matches a row decodes to that row's command (30_encoding.md R306). -/
theorem decodeWord_of_match {w : Word32} {m : Mnemonic} (h : w &&& m.mask = m.fixedBits) :
    decodeWord w = .command (m.command (ridxField w) (lenField w)) := by
  simp [decodeWord, mnemonicOf_eq_some.2 (opField_of_match h).symm, h]

/-- A word that matches no row is illegal (30_encoding.md R306, R307). -/
theorem decodeWord_of_no_match {w : Word32} (h : ∀ m : Mnemonic, w &&& m.mask ≠ m.fixedBits) :
    ∃ why, decodeWord w = .illegal why := by
  rcases decodeWord_cases w with ⟨m, _, hm, _⟩ | ⟨_, _, _, hd⟩ | ⟨_, hd⟩
  · exact absurd hm (h m)
  · exact ⟨_, hd⟩
  · exact ⟨_, hd⟩

/-- A word that decodes to a command matches the command's row, and the command has the word's operands. -/
theorem match_of_decodeWord {w : Word32} {i : Instr} (h : decodeWord w = .command i) :
    w &&& i.mnemonic.mask = i.mnemonic.fixedBits ∧ i.mnemonic.command (ridxField w) (lenField w) = i := by
  rcases decodeWord_cases w with ⟨m, _, hm, hd⟩ | ⟨m, _, _, hd⟩ | ⟨_, hd⟩ <;> rw [hd] at h
  · obtain rfl := Decoded.command.inj h
    rw [mnemonic_command]
    exact ⟨hm, rfl⟩
  · cases h
  · cases h

/-- No word matches two rows (30_encoding.md R306). -/
theorem match_unique {w : Word32} {m n : Mnemonic} (hm : w &&& m.mask = m.fixedBits) (hn : w &&& n.mask = n.fixedBits) :
    m = n :=
  op_injective ((opField_of_match hm).symm.trans (opField_of_match hn))

/-- The word of a well-formed command matches the command's row, by the lemma of its constructor. -/
theorem encode_match (i : Instr) : Laws.FixedBits.Statement i := by
  cases i with
  | nop => exact Laws.FixedBits.nop
  | keyexp => exact Laws.FixedBits.keyexp
  | rkread ridx => exact Laws.FixedBits.rkread ridx
  | ecbEnc len => exact Laws.FixedBits.ecbEnc len
  | ecbDec len => exact Laws.FixedBits.ecbDec len
  | cbcEnc len => exact Laws.FixedBits.cbcEnc len
  | cbcDec len => exact Laws.FixedBits.cbcDec len
  | ctrXcrypt len => exact Laws.FixedBits.ctrXcrypt len
  | subbytes => exact Laws.FixedBits.subbytes
  | invSubbytes => exact Laws.FixedBits.invSubbytes
  | shiftrows => exact Laws.FixedBits.shiftrows
  | invShiftrows => exact Laws.FixedBits.invShiftrows
  | mixcolumns => exact Laws.FixedBits.mixcolumns
  | invMixcolumns => exact Laws.FixedBits.invMixcolumns
  | addroundkey ridx => exact Laws.FixedBits.addroundkey ridx
  | gfmul => exact Laws.FixedBits.gfmul

/-- Settles O2: the word matches the command's row, and its fields are the command's operands. -/
theorem decodeOfEncode : Obligations.DecodeOfEncode := by
  intro i hwf
  obtain ⟨hridx, hlen⟩ := (wf_iff i).1 hwf
  rw [decodeWord_of_match (encode_match i hwf), ridxField_encode hridx, lenField_encode hridx hlen, command_mnemonic]

/-- Settles O3: the command's word has the bits its row fixes and, in the other bits, those of the decoded word. -/
theorem encodeOfDecode : Obligations.EncodeOfDecode := by
  intro w i h
  obtain ⟨hmatch, hi⟩ := match_of_decodeWord h
  constructor
  · have hridx : ridxField w < 16 := (w.extractLsb' 8 4).isLt
    have hlen : lenField w < 32 := (w.extractLsb' 16 5).isLt
    rw [wf_iff, ← hi, ridx_command, len_command]
    constructor <;> split <;> omega
  · calc encode i = i.mnemonic.fixedBits ||| (w &&& ~~~ i.mnemonic.mask) := by rw [← encode_command_fields, hi]
      _ = w &&& (i.mnemonic.mask ||| ~~~ i.mnemonic.mask) := by rw [← hmatch, BitVec.and_or_distrib_left]
      _ = w := by rw [BitVec.or_not_self, BitVec.and_allOnes]

/-- Settles O4: the written table is the model's opcode map, row by row. -/
theorem decodeFollowsOpcodeMap : Obligations.DecodeFollowsOpcodeMap := by
  intro w _ _ rows
  have hrows : rows = allMnemonics.map fun m => (m.fixedBits, m.mask, m.command (ridxField w) (lenField w)) := rfl
  have hall (m : Mnemonic) : m ∈ allMnemonics := by cases m <;> decide
  simp only [hrows, List.forall_mem_map, List.pairwise_map]
  refine ⟨fun m _ hm => decodeWord_of_match hm, fun h => decodeWord_of_no_match fun m => h m (hall m), ?_⟩
  have hdistinct : allMnemonics.Nodup := by decide
  exact hdistinct.imp fun hne ⟨hm, hn⟩ => hne (match_unique hm hn)

/-- An illegal word runs no command: it writes 0x01 to STATUS.ERR and nothing else (30_encoding.md R307). -/
theorem runCommand_of_illegal {w : Word32} (h : ∃ why, decodeWord w = .illegal why) (s : State) :
    runCommand w s = .next { s with err := 0x01 } := by
  obtain ⟨why, hd⟩ := h
  rw [runCommand_illegal hd, raiseCmdError_eq, errCode_illegal]

/-- A word of a row's OP matches no row but this one. -/
theorem decodeWord_of_op {w : Word32} {m : Mnemonic} (hop : opField w = m.op) (h : w &&& m.mask ≠ m.fixedBits) :
    ∃ why, decodeWord w = .illegal why :=
  decodeWord_of_no_match fun _ hn => h (op_injective ((opField_of_match hn).symm.trans hop) ▸ hn)

/-- Settles O5: an OP outside the map matches no row, a fixed bit of 1 above OP is not the row's 0, and NOP has the one word
that encodes it. -/
theorem reservedWordsFailIllegal : Obligations.ReservedWordsFailIllegal := by
  intro w s
  refine ⟨fun hop => ?_, fun m hop hbit => ?_, fun h => ?_, ?_⟩
  · refine runCommand_of_illegal (decodeWord_of_no_match fun m hm => ?_) s
    rw [show w.extractLsb' 0 8 = m.op from opField_of_match hm] at hop
    revert hop
    cases m <;> decide
  · refine runCommand_of_illegal (decodeWord_of_op hop fun hm => hbit ?_) s
    rw [hm]
    cases m <;> rfl
  · exact (encodeOfDecode w .nop h).2.symm
  · rintro rfl
    exact decodeOfEncode .nop rfl

/-- Settles O1: each word is evaluated. -/
theorem sampleWordsDecode : Obligations.SampleWordsDecode := by
  unfold Obligations.SampleWordsDecode
  decide

/-! ### The `cmd` line -/

/-- An operand that is given is used: the field is the operand, or 0 (30_encoding.md R310). -/
theorem field_of_operand {operand : Option Nat} {used : Bool} (h : operand.isSome = true → used = true) :
    (if used then operand.getD 0 else 0) = operand.getD 0 := by
  cases operand with
  | none => exact ite_self 0
  | some v => rw [h rfl, if_pos rfl]

/-- The assembler's check of an operand: it is absent, or the command uses it. -/
theorem operand_check (operand : Option Nat) (used : Bool) :
    (operand.isNone || used) = true ↔ (operand.isSome = true → used = true) := by
  cases operand <;> simp

/-- What the assembler makes of a `cmd` line: it takes an operand that the command uses and that fits its field
(30_encoding.md R310). -/
theorem commandWord_eq (m : Mnemonic) (ridx len : Option Nat) :
    commandWord m ridx len =
      if (ridx.isSome = true → usesRidx m = true) ∧ (len.isSome = true → usesLen m = true) ∧
        ridx.getD 0 ≤ 15 ∧ len.getD 0 ≤ 31 then
        some (m.op.setWidth 32 ||| (BitVec.ofNat 32 (ridx.getD 0) <<< 8) ||| (BitVec.ofNat 32 (len.getD 0) <<< 16))
      else none := by
  simp only [commandWord, Bool.and_eq_true, operand_check, wf_iff, encode_eq, mnemonic_command, ridx_command, len_command,
    and_assoc]
  by_cases hridx : ridx.isSome = true → usesRidx m = true
  · by_cases hlen : len.isSome = true → usesLen m = true
    · rw [field_of_operand hridx, field_of_operand hlen]
      simp only [Nat.lt_succ_iff]
    · simp [hlen]
  · simp [hridx]

/-- Settles O6: by the assembler's check of the operands and the word's fields. -/
theorem commandLineWord : Obligations.CommandLineWord := by
  refine ⟨fun m ridx len => ?_, rfl, rfl, rfl, rfl⟩
  simp only [← usesRidx_iff, ← usesLen_iff, assembleLine, commandWord_eq]
  exact ⟨fun h => by rw [if_pos h]; rfl, fun h => by rw [if_neg h]; rfl⟩

/-! ### Accesses one after the other -/

theorem accessAll_cons {a : Access} {s t : State} (h : hostAccess a s = .next t) (as : List Access) :
    accessAll (a :: as) s = accessAll as t := by
  rw [accessAll, h]

/-- Accesses that complete are followed by the later ones. -/
theorem accessAll_append {as : List Access} {s t : State} (h : accessAll as s = .next t) (bs : List Access) :
    accessAll (as ++ bs) s = accessAll bs t := by
  induction as generalizing s with
  | nil => rw [accessAll, Host.Outcome.next.injEq] at h; rw [h, List.nil_append]
  | cons a as ih =>
    cases ha : hostAccess a s with
    | next u =>
      rw [accessAll_cons ha] at h
      rw [List.cons_append, accessAll_cons ha, ih h]
    | fault | refused => simp [accessAll, ha] at h

/-- 4-byte writes at aligned offsets outside CMD store their lanes, one word after the other (20_memory.md R206). -/
theorem accessAll_wordWrites {α : Type} (off : α → BitVec 8) (word : α → Word32) (ks : List α)
    (haligned : ∀ k, (off k).toNat % 4 = 0) (hc : ∀ k, windowByte (off k) ≠ .command) (s : State) :
    accessAll (ks.map fun k => .write 4 (off k) (word k)) s =
      .next (ks.foldl (fun u k => storeLanes 4 (off k) (word k) u) s) := by
  induction ks generalizing s with
  | nil => rfl
  | cons k ks ih =>
    have hadm := admitted_write_of_not_command (widthAdmitted_four (haligned k)) (hc k) (word k)
    rw [List.map_cons, accessAll_cons (hostAccess_store hadm (hc k) s), ih, List.foldl_cons]

/-- No read shows the values read before (20_memory.md R207). -/
theorem busRead_recordRead (s : State) (v : BusValue) (n : Nat) (o : BitVec 8) :
    busRead (s.recordRead v) n o = busRead s n o := rfl

/-- 4-byte reads at aligned offsets return their words in order and change nothing else (20_memory.md R205, R207). -/
theorem accessAll_wordReads {α : Type} (off : α → BitVec 8) (ks : List α) (haligned : ∀ k, (off k).toNat % 4 = 0)
    (s : State) :
    accessAll (ks.map fun k => .read 4 (off k)) s =
      .next { s with reads := s.reads ++ ks.map fun k => busRead s 4 (off k) } := by
  induction ks generalizing s with
  | nil => simp [accessAll]
  | cons k ks ih =>
    rw [List.map_cons, accessAll_cons (hostAccess_read (widthAdmitted_four (haligned k)) s), ih]
    simp only [busRead_recordRead, State.recordRead_reads, List.append_assoc, List.cons_append, List.nil_append, List.map_cons]
    rfl

/-! ### wr128 and rd128 -/

/-- The offset of word `k` of a 16-byte register. -/
def wordOffset (r : RegName) (k : Fin 4) : BitVec 8 := BitVec.ofNat 8 (regOffset r + 4 * k.val)

/-- The offset of byte `i` of a 16-byte register. -/
def byteOffset (r : RegName) (i : Fin 16) : BitVec 8 := BitVec.ofNat 8 (regOffset r + i.val)

theorem wordOffset_aligned (r : RegName) (k : Fin 4) : (wordOffset r k).toNat % 4 = 0 := by
  cases r <;> revert k <;> decide

/-- The registers of 16 bytes stand above CMD (20_memory.md R201). -/
theorem wordOffset_not_command {r : RegName} (hr : isBlockReg r = true) (k : Fin 4) :
    windowByte (wordOffset r k) ≠ .command := by
  cases r with
  | ctrl | status | cmd | gf => cases hr
  | key | iv | din | dout | st => revert k; decide

/-- The lanes of word `k` of a block are the bytes of its column `k`, top to bottom (30_encoding.md R311). -/
theorem lane_blockWord (b : Block) (k : Fin 4) :
    lane (blockWord b k) 0 = b.cell 0 k ∧ lane (blockWord b k) 1 = b.cell 1 k ∧
    lane (blockWord b k) 2 = b.cell 2 k ∧ lane (blockWord b k) 3 = b.cell 3 k :=
  have hlane := lane_joinLanes fun i => b.cell i k
  ⟨hlane 0, hlane 1, hlane 2, hlane 3⟩

/-- `wr128` is the 16 byte writes of the block, byte 0 first (30_encoding.md R311; 20_memory.md R206). -/
theorem accessAll_blockWrites {r : RegName} (hr : isBlockReg r = true) (b : Block) (s : State) :
    accessAll (blockWrites r b) s =
      .next ((List.finRange 16).foldl (fun u i => writeByte (byteOffset r i) (b.byte i) u) s) := by
  have hwords := accessAll_wordWrites (wordOffset r) (blockWord b) [0, 1, 2, 3] (wordOffset_aligned r)
    (wordOffset_not_command hr) s
  simp only [List.foldl_cons, List.foldl_nil, storeLanes_four, lane_blockWord] at hwords
  refine hwords.trans ?_
  cases r <;> rfl

/-- Setting every byte of a block to that of `b` makes it `b`. -/
theorem foldl_setByte (a b : Block) : (List.finRange 16).foldl (fun v i => v.setByte i (b.byte i)) a = b := by
  have hbytes (l : List (Fin 16)) (v : Block) (j : Fin 16) :
      (l.foldl (fun v i => v.setByte i (b.byte i)) v).byte j = if j ∈ l then b.byte j else v.byte j := by
    induction l generalizing v with
    | nil => rfl
    | cons i l ih =>
      rw [List.foldl_cons, ih, Block.byte_setByte]
      grind
  exact Block.ext_byte fun j => by rw [hbytes, if_pos (List.mem_finRange j)]

/-- Where each byte write puts its byte into a register's block (`put`, which `get` reads), `wr128` puts its block there. -/
theorem accessAll_blockWrites_of_put {r : RegName} (hr : isBlockReg r = true) (put : Block → State → State)
    (get : State → Block) (hwrite : ∀ i d u, writeByte (byteOffset r i) d u = put ((get u).setByte i d) u)
    (hget : ∀ v u, get (put v u) = v) (hput : ∀ v v' u, put v (put v' u) = put v u) (b : Block) (s : State) :
    accessAll (blockWrites r b) s = .next (put b s) := by
  have hfold (l : List (Fin 16)) (v : Block) :
      l.foldl (fun u i => writeByte (byteOffset r i) (b.byte i) u) (put v s) =
        put (l.foldl (fun v i => v.setByte i (b.byte i)) v) s :=
    List.foldl_hom (put · s) fun v i => by rw [hwrite, hget, hput]
  have hall := foldl_setByte (get s) b
  rw [List.finRange_succ, List.foldl_cons] at hall
  rw [accessAll_blockWrites hr, List.finRange_succ, List.foldl_cons, hwrite, hfold, hall]

/-- Byte `i` of a 16-byte register in the register map (20_memory.md R201, R204). -/
theorem windowByte_byteOffset (i : Fin 16) :
    windowByte (byteOffset .key i) = .key i ∧ windowByte (byteOffset .iv i) = .iv i ∧
    windowByte (byteOffset .din i) = .din i ∧ windowByte (byteOffset .dout i) = .dout i ∧
    windowByte (byteOffset .st i) = .st i := by
  revert i
  decide

/-- A byte write to each of the 16-byte registers (20_memory.md R208). -/
theorem writeByte_byteOffset :
    (∀ i d s, writeByte (byteOffset .key i) d s = { s with key := s.key.setByte i d, rkValid := false }) ∧
    (∀ i d s, writeByte (byteOffset .iv i) d s = { s with iv := s.iv.setByte i d }) ∧
    (∀ i d s, writeByte (byteOffset .din i) d s = { s with din := s.din.setByte i d }) ∧
    (∀ i d s, writeByte (byteOffset .dout i) d s = s) ∧
    (∀ i d s, writeByte (byteOffset .st i) d s = { s with st := s.st.setByte i d }) := by
  simp only [writeByte, windowByte_byteOffset]
  exact ⟨fun _ _ _ => rfl, fun _ _ _ => rfl, fun _ _ _ => rfl, fun _ _ _ => trivial, fun _ _ _ => rfl⟩

theorem accessAll_blockWrites_key (b : Block) (s : State) :
    accessAll (blockWrites .key b) s = .next { s with key := b, rkValid := false } :=
  accessAll_blockWrites_of_put rfl (fun v u => { u with key := v, rkValid := false }) State.key
    writeByte_byteOffset.1 (fun _ _ => rfl) (fun _ _ _ => rfl) b s

/-- The word that a 4-byte read of each 16-byte register returns (20_memory.md R205). -/
theorem busRead_wordOffset (s : State) (k : Fin 4) :
    busRead s 4 (wordOffset .key k) = .word (blockWord s.key k) ∧
    busRead s 4 (wordOffset .iv k) = .word (blockWord s.iv k) ∧
    busRead s 4 (wordOffset .din k) = .word (blockWord s.din k) ∧
    busRead s 4 (wordOffset .dout k) = .word (blockWord s.dout k) ∧
    busRead s 4 (wordOffset .st k) = .word (blockWord s.st k) := by
  fin_cases k <;> exact ⟨rfl, rfl, rfl, rfl, rfl⟩

/-- `rd128` is the four 4-byte reads of the register's words (30_encoding.md R311). -/
theorem accessAll_blockReads (r : RegName) (s : State) :
    accessAll (blockReads r) s =
      .next { s with reads := s.reads ++ [0, 1, 2, 3].map fun k => busRead s 4 (wordOffset r k) } :=
  accessAll_wordReads (wordOffset r) [0, 1, 2, 3] (wordOffset_aligned r) s

/-- Settles O15: the lines by the lanes of a bus word, and their effects register by register. -/
theorem blockWritesAndReads : Obligations.BlockWritesAndReads := by
  obtain ⟨-, hiv, hdin, hdout, hst⟩ := writeByte_byteOffset
  refine ⟨fun r b hr => ⟨?_, if_pos hr⟩, fun s b => ⟨accessAll_blockWrites_key b s, ?_, ?_, ?_, ?_, ?_⟩, rfl⟩
  · rw [assembleLine, if_pos hr]
    simp only [blockWrites, blockWord, joinLanes_eq_or]
    rfl
  · exact accessAll_blockWrites_of_put rfl (fun v u => { u with iv := v }) State.iv hiv (fun _ _ => rfl)
      (fun _ _ _ => rfl) b s
  · exact accessAll_blockWrites_of_put rfl (fun v u => { u with din := v }) State.din hdin (fun _ _ => rfl)
      (fun _ _ _ => rfl) b s
  · rw [accessAll_blockWrites rfl, List.foldl_fixed' fun i => hdout i _ s]
  · exact accessAll_blockWrites_of_put rfl (fun v u => { u with st := v }) State.st hst (fun _ _ => rfl)
      (fun _ _ _ => rfl) b s
  · simp only [accessAll_blockReads, busRead_wordOffset, and_self]

/-- Settles O16: `wr128 KEY` and then KEYEXP, which overwrites RK, RK_VALID and ERR. -/
theorem setkeyLoadsAndExpands : Obligations.SetkeyLoadsAndExpands := by
  intro s k
  refine ⟨blockWrites .key k, [.write 4 0x08 (encode .keyexp)], rfl, rfl, rfl, ?_⟩
  have hkeyexp (t : State) : hostAccess (.write 4 0x08 (encode .keyexp)) t = exec .keyexp t :=
    (hostAccess_command rfl rfl t).trans (runCommand_command (decodeOfEncode .keyexp rfl) t)
  rw [accessAll_append (accessAll_blockWrites_key k s), accessAll_cons ((hkeyexp _).trans (exec_keyexp _))]
  rfl

end Sys2Proof.Machine
end

section
/-! PROOFS. Multiplication in GF(2^8) as a sum of powers of x, the laws it has as a field, and the GFMUL command
(40_gf256.md R400 to R410). -/

namespace Sys2Proof.Machine

/-! ### XOR sums -/

/-- Two sums are added term by term. -/
theorem xor_xor_xor_comm {n : Nat} (a b c d : BitVec n) : (a ^^^ b) ^^^ (c ^^^ d) = (a ^^^ c) ^^^ (b ^^^ d) := by
  ac_rfl

/-- The XOR of `f 0` to `f (k - 1)`: addition is XOR (40_gf256.md R401). -/
def xorSum {n : Nat} (f : Nat → BitVec n) (k : Nat) : BitVec n := ((List.range k).map f).foldl (fun p q => p ^^^ q) 0

theorem xorSum_succ {n : Nat} (f : Nat → BitVec n) (k : Nat) : xorSum f (k + 1) = xorSum f k ^^^ f k := by
  simp [xorSum, List.range_succ]

theorem xorSum_xor {n : Nat} (f g : Nat → BitVec n) (k : Nat) :
    xorSum (fun i => f i ^^^ g i) k = xorSum f k ^^^ xorSum g k := by
  induction k with
  | zero => exact BitVec.xor_zero.symm
  | succ k ih =>
    simp only [xorSum_succ, ih, xor_xor_xor_comm]

/-- Adding a term under a condition adds the term or zero. -/
theorem ite_xor_eq_xor_ite {n : Nat} (c : Bool) (p v : BitVec n) :
    (if c then p ^^^ v else p) = p ^^^ (if c then v else 0) := by
  cases c <;> simp

/-- A loop that adds in the terms whose condition holds computes their sum. -/
theorem foldl_range_eq_xorSum {n : Nat} (c : Nat → Bool) (f : Nat → BitVec n) (k : Nat) :
    (List.range k).foldl (fun p i => if c i then p ^^^ f i else p) 0 = xorSum (fun i => if c i then f i else 0) k := by
  induction k with
  | zero => rfl
  | succ k ih =>
    rw [List.range_succ, List.foldl_append, ih, xorSum_succ, ← ite_xor_eq_xor_ite]
    rfl

/-- A loop each of whose turns is linear is linear. -/
theorem foldl_xor {n : Nat} {turn : BitVec n → Nat → BitVec n}
    (hturn : ∀ p q i, turn (p ^^^ q) i = turn p i ^^^ turn q i) (l : List Nat) (p q : BitVec n) :
    l.foldl turn (p ^^^ q) = l.foldl turn p ^^^ l.foldl turn q := by
  induction l generalizing p q with
  | nil => rfl
  | cons i l ih => rw [List.foldl_cons, hturn, ih]; rfl

/-- Picking out a value by a bit of a word is linear in the word. -/
theorem ite_getLsbD_xor {m n : Nat} (b c : BitVec m) (i : Nat) (v : BitVec n) :
    (if (b ^^^ c).getLsbD i then v else 0) = (if b.getLsbD i then v else 0) ^^^ (if c.getLsbD i then v else 0) := by
  rw [BitVec.getLsbD_xor]
  cases b.getLsbD i <;> cases c.getLsbD i <;> simp

/-! ### Multiplication as a sum -/

/-- After `k` turns of the loop, `p` is the sum of the shifted operands so far and `a` is shifted `k` times
(40_gf256.md R403). -/
theorem foldl_gmulTurn_range (a b : Byte) (k : Nat) :
    (List.range k).foldl (gmulTurn b) (0, a) =
      (xorSum (fun i => if b.getLsbD i then xtime^[i] a else 0) k, xtime^[k] a) := by
  induction k with
  | zero => rfl
  | succ k ih =>
    rw [List.range_succ, List.foldl_append, ih, xorSum_succ, Function.iterate_succ_apply', ← ite_xor_eq_xor_ite]
    rfl

/-- Multiplication is the sum of `xtime^i(a)` over the set bits `i` of `b` (40_gf256.md R403). -/
theorem gmul_eq_xorSum (a b : Byte) : gmul a b = xorSum (fun i => if b.getLsbD i then xtime^[i] a else 0) 8 :=
  congrArg Prod.fst (foldl_gmulTurn_range a b 8)

/-- Multiplication is linear in its second operand (40_gf256.md R405). -/
theorem gmul_xor_right (a b c : Byte) : gmul a (b ^^^ c) = gmul a b ^^^ gmul a c := by
  simp only [gmul_eq_xorSum, ite_getLsbD_xor, xorSum_xor]

/-- Multiplying an operand by x multiplies the product by x. -/
theorem gmul_xtime_left (a b : Byte) : gmul (xtime a) b = xtime (gmul a b) := by
  have hsum (k : Nat) : xorSum (fun i => if b.getLsbD i then xtime^[i] (xtime a) else 0) k =
      xtime (xorSum (fun i => if b.getLsbD i then xtime^[i] a else 0) k) := by
    induction k with
    | zero => exact xtime_zero.symm
    | succ k ih =>
      rw [xorSum_succ, xorSum_succ, xtime_xor, ih, ← Function.iterate_succ_apply, Function.iterate_succ_apply']
      split
      · rfl
      · rw [xtime_zero]
  rw [gmul_eq_xorSum, gmul_eq_xorSum, hsum]

/-- A byte is the sum of the powers of x at its set bits (40_gf256.md R400). -/
theorem one_gmul (b : Byte) : gmul 0x01 b = b := by
  revert b
  decide +kernel

/-- Multiplying by a power of x is repeated `xtime`. -/
theorem powerOfX_gmul (i : Nat) (b : Byte) : gmul (xtime^[i] 0x01) b = xtime^[i] b := by
  induction i with
  | zero => exact one_gmul b
  | succ i ih => rw [Function.iterate_succ_apply', gmul_xtime_left, ih, Function.iterate_succ_apply']

/-! ### The field -/

/-- The powers x^0 to x^7 span the field: what holds of them and of the sum of any two bytes it holds of, holds of every
byte (40_gf256.md R400). -/
theorem xor_induction {P : Byte → Prop} (power : ∀ i < 8, P (xtime^[i] 0x01))
    (xor : ∀ a b, P a → P b → P (a ^^^ b)) (a : Byte) : P a := by
  have hzero : P 0 := xor 0x01 0x01 (power 0 (by decide)) (power 0 (by decide))
  have hsum (k : Nat) (hk : k ≤ 8) : P (xorSum (fun i => if a.getLsbD i then xtime^[i] 0x01 else 0) k) := by
    induction k with
    | zero => exact hzero
    | succ k ih =>
      rw [xorSum_succ]
      refine xor _ _ (ih (by omega)) ?_
      split
      · exact power k (by omega)
      · exact hzero
  rw [← one_gmul a, gmul_eq_xorSum]
  exact hsum 8 le_rfl

theorem gmul_comm (a b : Byte) : gmul a b = gmul b a := by
  induction a using xor_induction with
  | xor a a' iha iha' => rw [gmul_xor_left, gmul_xor_right, iha, iha']
  | power i _ =>
    induction b using xor_induction with
    | xor b b' ihb ihb' => rw [gmul_xor_left, gmul_xor_right, ihb, ihb']
    | power j _ =>
      rw [powerOfX_gmul, powerOfX_gmul, ← Function.iterate_add_apply, Nat.add_comm, Function.iterate_add_apply]

theorem gmul_assoc (a b c : Byte) : gmul (gmul a b) c = gmul a (gmul b c) := by
  have hxtime (i : Nat) : gmul (xtime^[i] b) c = xtime^[i] (gmul b c) :=
    (Function.Semiconj.iterate_right (f := (gmul · c)) (fun a => gmul_xtime_left a c) i) b
  induction a using xor_induction with
  | xor a a' ih ih' => simp only [gmul_xor_left, ih, ih']
  | power i _ => rw [powerOfX_gmul, powerOfX_gmul, hxtime]

@[simp] theorem gmul_one (a : Byte) : gmul a 0x01 = a := by rw [gmul_comm, one_gmul]

@[simp] theorem gmul_zero (a : Byte) : gmul a 0x00 = 0x00 := by
  simpa using gmul_xor_right a 0x00 0x00

@[simp] theorem zero_gmul (a : Byte) : gmul 0x00 a = 0x00 := by rw [gmul_comm, gmul_zero]

theorem gmul_two (a : Byte) : gmul a 0x02 = xtime a := by rw [gmul_comm]; exact powerOfX_gmul 1 a

theorem gmul_three (a : Byte) : gmul a 0x03 = xtime a ^^^ a := by
  rw [show (0x03 : Byte) = 0x02 ^^^ 0x01 by decide, gmul_xor_right, gmul_two, gmul_one]

/-! ### Inverses -/

/-- Squaring is linear: the mixed products cancel. -/
theorem gsquare_xor (a b : Byte) : gsquare (a ^^^ b) = gsquare a ^^^ gsquare b := by
  simp only [gsquare, gmul_xor_left, gmul_xor_right]
  rw [gmul_comm b a, BitVec.xor_assoc, ← BitVec.xor_assoc (gmul a b), BitVec.xor_self, BitVec.zero_xor]

/-- `a^256 = a`: repeated squaring is linear and maps each of the powers x^0 to x^7 to itself. -/
theorem gsquare_iterate_eight (a : Byte) : gsquare^[8] a = a := by
  have hpowers : ∀ i < 8, gsquare^[8] (xtime^[i] 0x01) = xtime^[i] 0x01 := by decide +kernel
  induction a using xor_induction with
  | xor a b iha ihb =>
    have hlinear := Function.Semiconj₂.iterate (f := gsquare) (op := (· ^^^ ·)) gsquare_xor 8 a b
    exact hlinear.trans (congrArg₂ (· ^^^ ·) iha ihb)
  | power i hi => exact hpowers i hi

/-- The bytes that are their own squares are 0 and 1. -/
theorem gsquare_eq_self {e : Byte} (he : gsquare e = e) : e = 0x00 ∨ e = 0x01 := by
  revert e
  decide +kernel

/-- `a^255` times `a` is `a^256`. -/
theorem gmul_gmul_ginv (a : Byte) : gmul a (gmul a (ginv a)) = a := by
  have hsquare (x y : Byte) : gmul x (gmul x y) = gmul (gsquare x) y := (gmul_assoc x x y).symm
  calc gmul a (gmul a (ginv a)) = gsquare^[8] a := by simp only [ginv, gmul_assoc, hsquare]; rfl
    _ = a := gsquare_iterate_eight a

/-- `a^254` is an inverse of `a`: `a^255` is its own square, and it is not 0 because `a^256` is `a` (40_gf256.md R404). -/
theorem gmul_ginv {a : Byte} (ha : a ≠ 0x00) : gmul a (ginv a) = 0x01 := by
  have hsquare : gsquare (gmul a (ginv a)) = gmul a (ginv a) := by
    rw [gsquare, gmul_comm a (ginv a), gmul_assoc, gmul_comm (ginv a) a, gmul_gmul_ginv, gmul_comm]
  refine (gsquare_eq_self hsquare).resolve_left fun hzero => ha ?_
  rw [← gmul_gmul_ginv a, hzero, gmul_zero]

/-- Multiplying by the inverse undoes the multiplication by a byte other than 0x00. -/
theorem ginv_gmul_cancel {a : Byte} (ha : a ≠ 0x00) (b : Byte) : gmul (ginv a) (gmul a b) = b := by
  rw [← gmul_assoc, gmul_comm (ginv a), gmul_ginv ha, one_gmul]

/-! ### The polynomial product -/

theorem polyMul_eq_xorSum (a b : Byte) :
    polyMul a b = xorSum (fun i => if b.getLsbD i then a.setWidth 16 <<< i else 0) 8 :=
  foldl_range_eq_xorSum b.getLsbD (fun i => a.setWidth 16 <<< i) 8

theorem polyMul_xor_right (a b c : Byte) : polyMul a (b ^^^ c) = polyMul a b ^^^ polyMul a c := by
  simp only [polyMul_eq_xorSum, ite_getLsbD_xor, xorSum_xor]

theorem polyMul_xor_left (a b c : Byte) : polyMul (a ^^^ b) c = polyMul a c ^^^ polyMul b c := by
  simp only [polyMul_eq_xorSum, ← xorSum_xor]
  refine congrArg (xorSum · 8) (funext fun i => ?_)
  split
  · rw [BitVec.setWidth_xor, BitVec.shiftLeft_xor_distrib]
  · rfl

/-- Reduction modulo `m(x)` is linear: each cancelled term is (40_gf256.md R400). -/
theorem polyMod_xor (p q : BitVec 16) : polyMod (p ^^^ q) = polyMod p ^^^ polyMod q := by
  unfold polyMod
  rw [foldl_xor, BitVec.setWidth_xor]
  intro p q i
  simp only [ite_xor_eq_xor_ite, ite_getLsbD_xor, xor_xor_xor_comm]

/-- Both products are linear in each operand, and they agree on the 64 products of powers of x (40_gf256.md R403). -/
theorem gmul_eq_polyMod_polyMul (a b : Byte) : gmul a b = polyMod (polyMul a b) := by
  have hpowers : ∀ i < 8, ∀ j < 8,
      gmul (xtime^[i] 0x01) (xtime^[j] 0x01) = polyMod (polyMul (xtime^[i] 0x01) (xtime^[j] 0x01)) := by decide +kernel
  induction a using xor_induction with
  | xor a a' iha iha' => rw [gmul_xor_left, polyMul_xor_left, polyMod_xor, iha, iha']
  | power i hi =>
    induction b using xor_induction with
    | xor b b' ihb ihb' => rw [gmul_xor_right, polyMul_xor_right, polyMod_xor, ihb, ihb']
    | power j hj => exact hpowers i hi j hj

/-- Settles O21: the loop computes the sum, and the polynomial product agrees with it by linearity. -/
theorem gmulIsPolynomialProduct : Obligations.GmulIsPolynomialProduct := fun a b =>
  ⟨gmul_eq_xorSum a b, gmul_eq_polyMod_polyMul a b, gmul_one a, gmul_two a, gmul_three a⟩

/-- Settles O22: any byte with the product 0x01 is found by multiplying that product by the inverse. -/
theorem inverseIsUnique : Obligations.InverseIsUnique := by
  refine ⟨by decide +kernel, fun a ha => ⟨gmul_ginv ha, fun b hb => ?_⟩⟩
  rw [← ginv_gmul_cancel ha b, hb, gmul_one]

/-- Settles O23: the laws hold of the powers of x and carry over to sums, and a factor other than 0x00 has an inverse. -/
theorem fieldLaws : Obligations.FieldLaws := by
  refine fun a b c => ⟨gmul_comm a b, gmul_assoc a b c, gmul_xor_right a b c, gmul_one a, gmul_zero a, fun h => ?_⟩
  refine or_iff_not_imp_left.2 fun ha => ?_
  rw [← ginv_gmul_cancel ha b, h, gmul_zero]

/-! ### The GFMUL command -/

/-- A command whose row fixes every bit of the word has one word, and a 1 above its OP is illegal (30_encoding.md R304,
R305). -/
theorem noFieldEncoding_of_mask {i : Instr} (hmask : i.mnemonic.mask = 0xFFFFFFFF)
    (hfields : ∀ ridx len, i.mnemonic.command ridx len = i) : noFieldEncoding i i.mnemonic.op := by
  have hall (w : Word32) : w &&& i.mnemonic.mask = w := by rw [hmask]; exact BitVec.and_allOnes
  refine ⟨?_, fun w s hop hbits => ?_⟩
  · rw [← fixedBits_eq_op, decodeWord_of_match (hall _), hfields]
  · obtain ⟨-, hreserved, -⟩ := reservedWordsFailIllegal w s
    refine hreserved i.mnemonic hop fun h => hbits ?_
    rw [hall] at h
    calc w.extractLsb' 8 24 = (w >>> 8).extractLsb' 0 24 := by
          apply BitVec.eq_of_getLsbD_eq
          simp
      _ = 0 := by rw [h]; rfl

/-- GFMUL from every state (40_gf256.md R410). -/
theorem exec_gfmul (s : State) : exec .gfmul s = .next { s with gfP := gmul s.gfA s.gfB, err := 0x00 } := rfl

/-- Settles O24: GFMUL writes GF.P and STATUS.ERR and keeps the operands, and the corner cases are laws of the field. -/
theorem gfmulMultiplies : Obligations.GfmulMultiplies := by
  refine ⟨noFieldEncoding_of_mask (i := .gfmul) rfl fun _ _ => rfl, exec_gfmul, fun s => ?_,
    fun a => ⟨gmul_zero a, zero_gmul a, gmul_one a⟩, by decide⟩
  simp only [execAll, exec_gfmul]

end Sys2Proof.Machine
end

section
/-! PROOFS. The S-box tables, the round transforms as permutations of the blocks, MixColumns as a product of polynomials, and
the single-transform commands (41_round_transforms.md R420 to R446). -/

namespace Sys2Proof.Machine

/-! ### The S-box tables -/

/-- The inverse of the affine map of 41_round_transforms.md R421 (`ginv_eq_invAffine_sbox`). -/
def invAffine (y : Byte) : Byte := y.rotateLeft 1 ^^^ y.rotateLeft 3 ^^^ y.rotateLeft 6 ^^^ 0x05

theorem gmul_invAffine_sbox {x : Byte} (hx : x ≠ 0x00) : gmul x (invAffine (sbox x)) = 0x01 := by
  revert x
  decide +kernel

/-- Undoing the affine map on an entry of the table gives the inverse, for the inverse is unique (40_gf256.md R404). -/
theorem ginv_eq_invAffine_sbox (x : Byte) : ginv x = invAffine (sbox x) := by
  obtain ⟨hzero, hinverse⟩ := inverseIsUnique
  by_cases hx : x = 0x00
  · rw [hx, hzero]
    decide
  · exact ((hinverse x hx).2 _ (gmul_invAffine_sbox hx)).symm

/-- The table of 41_round_transforms.md R420 is the derivation of R421. -/
theorem sbox_eq_affine_ginv (x : Byte) :
    sbox x = ginv x ^^^ (ginv x).rotateLeft 1 ^^^ (ginv x).rotateLeft 2 ^^^ (ginv x).rotateLeft 3 ^^^ (ginv x).rotateLeft 4
      ^^^ 0x63 := by
  rw [ginv_eq_invAffine_sbox]
  revert x
  decide +kernel

theorem sbox_ne_self (x : Byte) : sbox x ≠ x := by
  revert x
  decide +kernel

theorem sbox_ne_complement (x : Byte) : sbox x ≠ x ^^^ 0xFF := by
  revert x
  decide +kernel

@[simp] theorem invSbox_sbox (x : Byte) : invSbox (sbox x) = x := by
  revert x
  decide +kernel

/-- The left inverse of a permutation of a finite set is its right inverse as well. -/
@[simp] theorem sbox_invSbox (x : Byte) : sbox (invSbox x) = x := by
  have hleft : Function.LeftInverse invSbox sbox := invSbox_sbox
  exact hleft.rightInverse_of_surjective (Finite.surjective_of_injective hleft.injective) x

/-- Settles O25: the tables are checked against each other entry by entry, and against the derivation through the uniqueness of
the inverse. -/
theorem sboxTables : Obligations.SboxTables :=
  ⟨fun x => ⟨sbox_eq_affine_ginv x, sbox_ne_self x, sbox_ne_complement x, invSbox_sbox x, sbox_invSbox x⟩, by decide⟩

/-! ### SubBytes -/

@[simp] theorem subBytes_byte (s : Block) (i : Fin 16) : (subBytes s).byte i = sbox (s.byte i) :=
  Block.byte_mapBytes sbox s i

@[simp] theorem invSubBytes_byte (s : Block) (i : Fin 16) : (invSubBytes s).byte i = invSbox (s.byte i) :=
  Block.byte_mapBytes invSbox s i

@[simp] theorem invSubBytes_subBytes (s : Block) : invSubBytes (subBytes s) = s :=
  Block.ext_byte fun i => by rw [invSubBytes_byte, subBytes_byte, invSbox_sbox]

@[simp] theorem subBytes_invSubBytes (s : Block) : subBytes (invSubBytes s) = s :=
  Block.ext_byte fun i => by rw [subBytes_byte, invSubBytes_byte, sbox_invSbox]

/-- Settles O26: the tables undo each other in each byte. -/
theorem subBytesRoundTrip : Obligations.SubBytesRoundTrip := fun s =>
  ⟨invSubBytes_byte s, invSubBytes_subBytes s, subBytes_invSubBytes s⟩

/-! ### ShiftRows -/

/-- Byte `r + 4c` of a block is `s[r][c]` (00_scope.md R11). -/
theorem byte_eq_cell (b : Block) (r c : Fin 4) : b.byte (Fin.ofNat 16 (r.val + 4 * c.val)) = b.cell r c := by
  fin_cases r <;> fin_cases c <;> rfl

@[simp] theorem shiftRows_cell (s : Block) (r c : Fin 4) : (shiftRows s).cell r c = s.cell r (c + r) :=
  Block.cell_ofCells _ r c

@[simp] theorem invShiftRows_cell (s : Block) (r c : Fin 4) : (invShiftRows s).cell r c = s.cell r (c - r) :=
  Block.cell_ofCells _ r c

@[simp] theorem invShiftRows_shiftRows (s : Block) : invShiftRows (shiftRows s) = s :=
  Block.ext_cell fun r c => by rw [invShiftRows_cell, shiftRows_cell, sub_add_cancel]

@[simp] theorem shiftRows_invShiftRows (s : Block) : shiftRows (invShiftRows s) = s :=
  Block.ext_cell fun r c => by rw [shiftRows_cell, invShiftRows_cell, add_sub_cancel_right]

/-- Four rotations of row `r` by `r` are `r` full turns (41_round_transforms.md R442). -/
theorem shiftRows_four (s : Block) : shiftRows (shiftRows (shiftRows (shiftRows s))) = s := by
  have hturn : ∀ r c : Fin 4, c + r + r + r + r = c := by decide
  exact Block.ext_cell fun r c => by simp only [shiftRows_cell, hturn]

/-- Settles O27: the formulas are read off the cells, with the column index as a number mod 4. -/
theorem shiftRowsPermutations : Obligations.ShiftRowsPermutations := by
  refine fun s => ⟨fun r c => ⟨?_, ?_⟩, rfl, rfl, invShiftRows_shiftRows s⟩
  · rw [byte_eq_cell, shiftRows_cell, ← byte_eq_cell, Fin.val_add]
  · have hcolumn : (c - r).val = (c.val + 4 - r.val) % 4 := by
      rw [Fin.val_sub]
      congr 1
      omega
    rw [byte_eq_cell, invShiftRows_cell, ← byte_eq_cell, hcolumn]

theorem shiftRows_eq_self_iff (s : Block) : shiftRows s = s ↔ ∀ r c, s.cell r (c + r) = s.cell r c := by
  constructor
  · intro h r c
    rw [← shiftRows_cell, h]
  · exact fun h => Block.ext_cell fun r c => by rw [shiftRows_cell, h]

/-- A transform and its inverse leave the same states unchanged. -/
theorem invShiftRows_eq_self_iff (s : Block) : invShiftRows s = s ↔ shiftRows s = s := by
  constructor <;> intro h
  · rw [← h, shiftRows_invShiftRows, h]
  · rw [← h, invShiftRows_shiftRows, h]

/-- The fixed states row by row: row 0 is free, a rotation by 1 or 3 makes a row one repeated byte, and a rotation by 2 gives
it period 2 (41_round_transforms.md R425; log entry 14). -/
theorem shiftRows_eq_self_iff_rows (s : Block) :
    shiftRows s = s ↔
      (s.c0.b1 = s.c1.b1 ∧ s.c1.b1 = s.c2.b1 ∧ s.c2.b1 = s.c3.b1) ∧ (s.c0.b2 = s.c2.b2 ∧ s.c1.b2 = s.c3.b2) ∧
      (s.c0.b3 = s.c1.b3 ∧ s.c1.b3 = s.c2.b3 ∧ s.c2.b3 = s.c3.b3) := by
  rw [shiftRows_eq_self_iff]
  constructor
  · exact fun h => ⟨⟨(h 1 0).symm, (h 1 1).symm, (h 1 2).symm⟩, ⟨(h 2 0).symm, (h 2 1).symm⟩, h 3 1, h 3 2, h 3 3⟩
  · rintro ⟨⟨h01, h12, h23⟩, ⟨k02, k13⟩, m01, m12, m23⟩ r c
    fin_cases r
    · exact congrArg (s.cell 0) (add_zero c)
    · fin_cases c
      exacts [h01.symm, h12.symm, h23.symm, h01.trans (h12.trans h23)]
    · fin_cases c
      exacts [k02.symm, k13.symm, k02, k13]
    · fin_cases c
      exacts [(m01.trans (m12.trans m23)).symm, m01, m12, m23]

/-- Four equal columns are four equal bytes in every row (41_round_transforms.md R442). -/
theorem shiftRows_of_equal_columns {s : Block} (h : s.c0 = s.c1 ∧ s.c1 = s.c2 ∧ s.c2 = s.c3) : shiftRows s = s := by
  obtain ⟨h01, h12, h23⟩ := h
  rw [shiftRows_eq_self_iff_rows, h01, h12, h23]
  exact ⟨⟨rfl, rfl, rfl⟩, ⟨rfl, rfl⟩, rfl, rfl, rfl⟩

/-- Settles O28: the fixed states are read off row by row, and the two rotations have the same ones. -/
theorem shiftRowsFixedStates : Obligations.ShiftRowsFixedStates := fun s =>
  ⟨shiftRows_eq_self_iff_rows s, invShiftRows_eq_self_iff s,
    fun h => ⟨shiftRows_of_equal_columns h, (invShiftRows_eq_self_iff s).2 (shiftRows_of_equal_columns h)⟩⟩

/-! ### MixColumns -/

/-- The product of two columns as polynomials over GF(2^8) modulo `x^4 + 1`, byte `i` the coefficient of `x^i`: byte `k` is the
sum of the products whose places add up to `k` mod 4. MixColumns multiplies by a fixed polynomial
(`mixColumn_eq_columnMul`). -/
def columnMul (p q : Column) : Column :=
  ⟨gmul p.b0 q.b0 ^^^ gmul p.b3 q.b1 ^^^ gmul p.b2 q.b2 ^^^ gmul p.b1 q.b3,
   gmul p.b1 q.b0 ^^^ gmul p.b0 q.b1 ^^^ gmul p.b3 q.b2 ^^^ gmul p.b2 q.b3,
   gmul p.b2 q.b0 ^^^ gmul p.b1 q.b1 ^^^ gmul p.b0 q.b2 ^^^ gmul p.b3 q.b3,
   gmul p.b3 q.b0 ^^^ gmul p.b2 q.b1 ^^^ gmul p.b1 q.b2 ^^^ gmul p.b0 q.b3⟩

/-- The polynomial of MixColumns, `3x^3 + x^2 + x + 2`. -/
def mixPolynomial : Column := ⟨0x02, 0x01, 0x01, 0x03⟩

/-- The polynomial of InvMixColumns, `0bx^3 + 0dx^2 + 09x + 0e`. -/
def invMixPolynomial : Column := ⟨0x0e, 0x09, 0x0d, 0x0b⟩

theorem columnMul_assoc (p q r : Column) : columnMul (columnMul p q) r = columnMul p (columnMul q r) := by
  simp only [columnMul, gmul_xor_left, gmul_xor_right, gmul_assoc]
  apply Column.ext_bytes <;> ac_rfl

theorem one_columnMul (q : Column) : columnMul ⟨0x01, 0x00, 0x00, 0x00⟩ q = q := by
  simp only [columnMul, one_gmul, zero_gmul]
  simp

theorem mixColumn_eq_columnMul (a : Column) : mixColumn a = columnMul mixPolynomial a := by
  simp only [mixColumn, mixPolynomial, columnMul, one_gmul]

/-- InvMixColumns on a column is MixColumns three times: its polynomial is the cube of the other
(41_round_transforms.md R428, R429). -/
theorem mixColumn_three (a : Column) : mixColumn (mixColumn (mixColumn a)) = invMixColumnMatrix a := by
  have hcube : columnMul mixPolynomial (columnMul mixPolynomial mixPolynomial) = invMixPolynomial := by decide
  calc mixColumn (mixColumn (mixColumn a))
      = columnMul (columnMul mixPolynomial (columnMul mixPolynomial mixPolynomial)) a := by
        simp only [mixColumn_eq_columnMul, columnMul_assoc]
    _ = invMixColumnMatrix a := by rw [hcube]; rfl

/-- The fourth power of the polynomial is 1 (41_round_transforms.md R429). -/
theorem mixColumn_four (a : Column) : mixColumn (mixColumn (mixColumn (mixColumn a))) = a := by
  have hone : columnMul mixPolynomial invMixPolynomial = ⟨0x01, 0x00, 0x00, 0x00⟩ := by decide
  calc mixColumn (mixColumn (mixColumn (mixColumn a))) = columnMul mixPolynomial (columnMul invMixPolynomial a) := by
        rw [mixColumn_three a, mixColumn_eq_columnMul]; rfl
    _ = a := by rw [← columnMul_assoc, hone, one_columnMul]

/-- The coefficients of a row add up to 1, so equal bytes stay as they are (41_round_transforms.md R444). -/
theorem mixColumn_of_equal_bytes {a : Column} (h : a.b0 = a.b1 ∧ a.b1 = a.b2 ∧ a.b2 = a.b3) : mixColumn a = a := by
  obtain ⟨x, _, _, _⟩ := a
  dsimp only at h
  obtain ⟨rfl, rfl, rfl⟩ := h
  have hrow : (gmul 0x02 x ^^^ gmul 0x03 x) ^^^ (x ^^^ x) = x := by
    rw [← gmul_xor_left, BitVec.xor_self, BitVec.xor_zero]
    exact one_gmul x
  apply Column.ext_bytes <;> exact .trans (by dsimp only [mixColumn]; ac_rfl) hrow

theorem mixColumns_column (s : Block) (c : Fin 4) : (mixColumns s).column c = mixColumn (s.column c) :=
  Block.column_mapColumns mixColumn s c

theorem invMixColumns_column (s : Block) (c : Fin 4) : (invMixColumns s).column c = invMixColumnMatrix (s.column c) := by
  rw [invMixColumns, mixColumns_column, mixColumns_column, mixColumns_column, mixColumn_three]

/-- A block is its 4 columns. -/
theorem block_ext_column {a b : Block} (h : ∀ c, a.column c = b.column c) : a = b :=
  Block.ext_columns (h 0) (h 1) (h 2) (h 3)

theorem mixColumns_four (s : Block) : mixColumns (mixColumns (mixColumns (mixColumns s))) = s :=
  block_ext_column fun c => by simp only [mixColumns_column, mixColumn_four]

@[simp] theorem invMixColumns_mixColumns (s : Block) : invMixColumns (mixColumns s) = s := mixColumns_four s

@[simp] theorem mixColumns_invMixColumns (s : Block) : mixColumns (invMixColumns s) = s := mixColumns_four s

/-- Settles O29: MixColumns multiplies each column by a polynomial whose cube is the inverse matrix and whose fourth power
is 1. -/
theorem mixColumnsHasOrderFour : Obligations.MixColumnsHasOrderFour := fun s =>
  ⟨rfl, mixColumns_four s, invMixColumns_mixColumns s, mixColumns_invMixColumns s, invMixColumns_column s⟩

/-! ### The commands without an operand -/

section exec

variable (s : State)

theorem exec_subbytes : exec .subbytes s = .next { s with st := subBytes s.st, err := 0x00 } := rfl
theorem exec_invSubbytes : exec .invSubbytes s = .next { s with st := invSubBytes s.st, err := 0x00 } := rfl
theorem exec_shiftrows : exec .shiftrows s = .next { s with st := shiftRows s.st, err := 0x00 } := rfl
theorem exec_invShiftrows : exec .invShiftrows s = .next { s with st := invShiftRows s.st, err := 0x00 } := rfl
theorem exec_mixcolumns : exec .mixcolumns s = .next { s with st := mixColumns s.st, err := 0x00 } := rfl
theorem exec_invMixcolumns : exec .invMixcolumns s = .next { s with st := invMixColumns s.st, err := 0x00 } := rfl

end exec

/-- Settles O30: the bytes are those of SubBytes and InvSubBytes, and the round trip is `invSubBytes_subBytes`. -/
theorem subBytesCommands : Obligations.SubBytesCommands := by
  refine ⟨noFieldEncoding_of_mask (i := .subbytes) rfl fun _ _ => rfl,
    noFieldEncoding_of_mask (i := .invSubbytes) rfl fun _ _ => rfl, fun s => ?_,
    by decide, by decide, ⟨Block.zero, by decide⟩, by decide, by decide⟩
  refine ⟨_, _, exec_subbytes s, rfl, subBytes_byte s.st, exec_invSubbytes s, rfl, invSubBytes_byte s.st, ?_⟩
  rw [exec_invSubbytes, invSubBytes_subBytes]

/-- Settles O31: the cells are those of ShiftRows and InvShiftRows, and the round trips are `invShiftRows_shiftRows` and
`shiftRows_four`. -/
theorem shiftRowsCommands : Obligations.ShiftRowsCommands := by
  refine ⟨noFieldEncoding_of_mask (i := .shiftrows) rfl fun _ _ => rfl,
    noFieldEncoding_of_mask (i := .invShiftrows) rfl fun _ _ => rfl, fun s => ?_, by decide, by decide⟩
  refine ⟨_, _, exec_shiftrows s, rfl, shiftRows_cell s.st, exec_invShiftrows s, rfl, invShiftRows_cell s.st, ?_, ?_,
    shiftRows_of_equal_columns⟩
  · rw [exec_invShiftrows, invShiftRows_shiftRows]
  · simp only [execAll, exec_shiftrows, shiftRows_four]

/-- Settles O32: the columns are those of MixColumns, and the round trips are `mixColumns_four`. -/
theorem mixColumnsCommands : Obligations.MixColumnsCommands := by
  refine ⟨noFieldEncoding_of_mask (i := .mixcolumns) rfl fun _ _ => rfl,
    noFieldEncoding_of_mask (i := .invMixcolumns) rfl fun _ _ => rfl, fun s => ?_, by decide, by decide, by decide⟩
  refine ⟨_, _, exec_mixcolumns s, rfl, fun c => ?_, exec_invMixcolumns s, rfl, ?_, ?_⟩
  · simp only [Block.cell, mixColumns_column, invMixColumns_column, ← mixColumn_three]
    exact ⟨rfl, rfl, rfl, rfl, fun h => by simp only [mixColumn_of_equal_bytes h, and_self]⟩
  · rw [exec_invMixcolumns, invMixColumns_mixColumns]
  · simp only [execAll, exec_mixcolumns, mixColumns_four]

/-! ### The ADDROUNDKEY command -/

/-- A command whose row leaves RIDX free alone has one word for each index, and a 1 in bits 31:12 is illegal
(30_encoding.md R304, R305). -/
theorem ridxEncoding_of_row {m : Mnemonic} (hm : usesRidx m = true) : ridxEncoding (fun ridx => m.command ridx 0) m.op := by
  refine ⟨fun ridx hridx => ?_, fun w s hop hbits => ?_⟩
  · have hencode : encode (m.command ridx 0) = m.op.setWidth 32 ||| (BitVec.ofNat 32 ridx <<< 8) := by
      rw [encode_eq, mnemonic_command, ridx_command, len_command, if_pos hm, ite_self]
      exact BitVec.or_zero
    have hwf : (m.command ridx 0).wf = true := by
      rw [wf_iff, ridx_command, len_command, if_pos hm, ite_self]
      exact ⟨hridx, by decide⟩
    rw [← hencode, decodeOfEncode _ hwf]
  · obtain ⟨-, hreserved, -⟩ := reservedWordsFailIllegal w s
    have hmask : m.mask.extractLsb' 12 20 = BitVec.allOnes 20 := by
      rcases (usesRidx_iff m).1 hm with rfl | rfl <;> rfl
    refine hreserved m hop fun h => hbits ?_
    calc w.extractLsb' 12 20 = (w &&& m.mask).extractLsb' 12 20 := by
          rw [BitVec.extractLsb'_and, hmask, BitVec.and_allOnes]
      _ = ((w &&& m.mask) >>> 8).extractLsb' 4 20 := by
          apply BitVec.eq_of_getLsbD_eq
          simp [← Nat.add_assoc]
      _ = 0 := by rw [h]; rfl

section addRoundKey

variable {ridx : Nat} {s : State}

/-- The first check is the index (60_exceptions.md R602). -/
theorem exec_addroundkey_ridx (hridx : 10 < ridx) : exec (.addroundkey ridx) s = .next { s with err := 0x02 } :=
  congrArg Host.Outcome.next (withSchedule_fieldError (decide_eq_false (by omega)) _ _ _)

/-- The second check is RK_VALID (60_exceptions.md R602). -/
theorem exec_addroundkey_noKey (hridx : ridx ≤ 10) (hvalid : s.rkValid = false) :
    exec (.addroundkey ridx) s = .next { s with err := 0x04 } :=
  congrArg Host.Outcome.next (withSchedule_noKey (decide_eq_true hridx) _ _ hvalid)

theorem exec_addroundkey_success (hridx : ridx ≤ 10) (hvalid : s.rkValid = true) :
    exec (.addroundkey ridx) s = .next { s with st := s.st.xor (roundKey s.rk ridx), err := 0x00 } :=
  congrArg Host.Outcome.next (withSchedule_success (decide_eq_true hridx) _ _ hvalid)

end addRoundKey

/-- Round key 0 is the key itself (42_key_schedule.md R467). -/
@[simp] theorem roundKey_keyExpansion_zero (key : Block) : roundKey (keyExpansion key) 0 = key := rfl

/-- Settles O33: the checks in their order, and XOR with the same round key twice cancels. -/
theorem addRoundKeyCommand : Obligations.AddRoundKeyCommand := by
  refine ⟨ridxEncoding_of_row (m := .addroundkey) rfl, fun s ridx => ⟨exec_addroundkey_ridx, exec_addroundkey_noKey,
    fun hridx hvalid => ?_, fun hvalid hinv => ?_⟩, fun s => ?_⟩
  · refine ⟨_, exec_addroundkey_success hridx hvalid, rfl, Block.byte_xor _ _, ?_⟩
    rw [exec_addroundkey_success (s := { s with st := s.st.xor (roundKey s.rk ridx), err := 0x00 }) hridx hvalid,
      Block.xor_xor_cancel]
  · rw [exec_addroundkey_success (Nat.zero_le 10) hvalid, hinv.1 hvalid, roundKey_keyExpansion_zero]
  · have hxor : (Block.ofHex 0x3243f6a8885a308d313198a2e0370734).xor (Block.ofHex 0x2b7e151628aed2a6abf7158809cf4f3c) =
        Block.ofHex 0x193de3bea0f4e22b9ac68d2ae9f84808 := by decide
    rw [exec_addroundkey_success (Nat.zero_le 10) rfl, roundKey_keyExpansion_zero, hxor]

end Sys2Proof.Machine
end

section
/-! PROOFS. The round keys of a schedule and its 44 words, and the commands KEYEXP and RKREAD (42_key_schedule.md R460 to
R467). -/

namespace Sys2Proof.Machine

/-! ### The recurrence of the round keys -/

theorem keyExpansion_eq_ofFn (key : Block) : keyExpansion key = Vector.ofFn fun r => scheduleKey key r := rfl

/-- Entry `r` of KeyExpansion(key) is round key `r` of the schedule (42_key_schedule.md R464). -/
theorem keyExpansion_get (key : Block) (r : Fin 11) : (keyExpansion key).get r = scheduleKey key r := by
  rw [keyExpansion_eq_ofFn, Vector.get_eq_getElem, Vector.getElem_ofFn]

theorem roundKey_keyExpansion (key : Block) {r : Nat} (hr : r ≤ 10) : roundKey (keyExpansion key) r = scheduleKey key r := by
  rw [roundKey, keyExpansion_get, Fin.val_ofNat, Nat.mod_eq_of_lt (by omega)]

/-- A column after the first: that column of the previous round key XOR the column before it (42_key_schedule.md R463). -/
theorem nextRoundKey_column_succ (i : Nat) (prev : Block) (c : Fin 3) :
    (nextRoundKey i prev).column c.succ = (prev.column c.succ).xor ((nextRoundKey i prev).column c.castSucc) := by
  fin_cases c <;> rfl

/-- A round key determines every later one, for the next one is a function of it and the index (42_key_schedule.md R467). -/
theorem scheduleKey_eq_of_eq {k k' : Block} {r q : Nat} (h : scheduleKey k r = scheduleKey k' r) (hrq : r ≤ q) :
    scheduleKey k q = scheduleKey k' q := by
  induction q, hrq using Nat.le_induction with
  | base => exact h
  | succ q _ ih => rw [scheduleKey, scheduleKey, ih]

/-- Settles O37: round key 0 is the key by definition, and agreement is carried from one round key to the next. -/
theorem scheduleLaws : Obligations.ScheduleLaws := by
  refine ⟨roundKey_keyExpansion_zero, fun k k' r hr h q hrq hq => ?_⟩
  have hstart : scheduleKey k r = scheduleKey k' r :=
    calc scheduleKey k r = roundKey (keyExpansion k) r := (roundKey_keyExpansion k hr.le).symm
      _ = roundKey (keyExpansion k') r := h
      _ = scheduleKey k' r := roundKey_keyExpansion k' hr.le
  calc roundKey (keyExpansion k) q = scheduleKey k q := roundKey_keyExpansion k hq
    _ = scheduleKey k' q := scheduleKey_eq_of_eq hstart hrq
    _ = roundKey (keyExpansion k') q := (roundKey_keyExpansion k' hq).symm

/-! ### The words of a schedule -/

/-- Each round constant is twice the one before (42_key_schedule.md R462). -/
theorem rconByte_eq_xtime {i : Nat} (h2 : 2 ≤ i) (h10 : i ≤ 10) : rconByte i = xtime (rconByte (i - 1)) := by
  interval_cases i <;> decide

/-- Word `4r + c` is column `c` of round key `r` (42_key_schedule.md R464). -/
theorem scheduleWord_eq_column (key : Block) {r : Nat} (hr : r ≤ 10) (c : Fin 4) :
    scheduleWord key (4 * r + c.val) = (scheduleKey key r).column c := by
  have hround : (4 * r + c.val) / 4 = r := by omega
  have hcolumn : Fin.ofNat 4 (4 * r + c.val) = c := Fin.ext (by rw [Fin.val_ofNat]; omega)
  rw [scheduleWord, hround, hcolumn, roundKey_keyExpansion key hr]

/-- Round key `r` is words `4r .. 4r+3` (42_key_schedule.md R464). -/
theorem scheduleKey_eq_words (key : Block) {r : Nat} (hr : r ≤ 10) :
    scheduleKey key r = ⟨scheduleWord key (4 * r), scheduleWord key (4 * r + 1), scheduleWord key (4 * r + 2),
      scheduleWord key (4 * r + 3)⟩ :=
  block_ext_column fun c => by
    rw [← scheduleWord_eq_column key hr c]
    fin_cases c <;> rfl

/-- The first word of a round (42_key_schedule.md R463). -/
theorem scheduleWord_first (key : Block) {r : Nat} (hr : r < 10) :
    scheduleWord key (4 * (r + 1)) =
      ((subWord (rotWord (scheduleWord key (4 * r + 3)))).xor (rcon (r + 1))).xor (scheduleWord key (4 * r)) := by
  have hfirst : scheduleWord key (4 * (r + 1)) = (nextRoundKey (r + 1) (scheduleKey key r)).c0 :=
    scheduleWord_eq_column key hr 0
  rw [hfirst, nextRoundKey, scheduleKey_eq_words key hr.le]

/-- The words of a round after its first (42_key_schedule.md R463). -/
theorem scheduleWord_following (key : Block) {r : Nat} (hr : r < 10) (c : Fin 3) :
    scheduleWord key (4 * (r + 1) + c.succ.val) =
      (scheduleWord key (4 * r + c.succ.val)).xor (scheduleWord key (4 * (r + 1) + c.castSucc.val)) := by
  rw [scheduleWord_eq_column key hr, scheduleWord_eq_column key hr.le, scheduleWord_eq_column key hr]
  exact nextRoundKey_column_succ (r + 1) (scheduleKey key r) c

/-- Settles O34: the words are the columns of the round keys, and each round key is `nextRoundKey` of the one before. -/
theorem keyScheduleRecurrence : Obligations.KeyScheduleRecurrence := by
  refine ⟨fun _ => ⟨rfl, rfl⟩, rfl, fun i h2 h10 => ?_, fun key => ⟨fun j => ?_, fun i h1 h10 => ?_, fun r => ?_⟩⟩
  · rw [rcon, rconByte_eq_xtime h2 h10, rcon]
  · rw [← Nat.zero_add j.val]
    exact scheduleWord_eq_column key (Nat.zero_le 10) j
  · obtain ⟨r, rfl⟩ : ∃ r, i = r + 1 := ⟨i - 1, by omega⟩
    refine ⟨scheduleWord_first key h10, fun j hj1 hj3 => ?_⟩
    obtain ⟨c, rfl⟩ : ∃ c, j = c + 1 := ⟨j - 1, by omega⟩
    exact scheduleWord_following key h10 ⟨c, by omega⟩
  · rw [keyExpansion_get, scheduleKey_eq_words key (Nat.le_of_lt_succ r.isLt)]

/-! ### KEYEXP -/

/-- Round key 10 of the key of FIPS-197 Appendix A.1, the example of both commands (42_key_schedule.md R465, R466). -/
theorem roundKey_fips197_ten :
    roundKey (keyExpansion (Block.ofHex 0x2b7e151628aed2a6abf7158809cf4f3c)) 10 =
      Block.ofHex 0xd014f9a8c9ee2589e13f0cc8b6630ca6 := by
  decide +kernel

/-- Settles O35: a second KEYEXP expands the same KEY, and every other command keeps RK (`exec_keepsSchedule`). -/
theorem keyexpExpands : Obligations.KeyexpExpands := by
  refine ⟨noFieldEncoding_of_mask (i := .keyexp) rfl fun _ _ => rfl, exec_keyexp, fun s => ?_, fun i s t h hi => ?_,
    by decide, by decide, roundKey_fips197_ten⟩
  · simp only [execAll, exec_keyexp]
  · obtain ⟨u, hu, hkeeps⟩ := exec_keepsSchedule hi s
    obtain rfl := Host.Outcome.next.inj (hu.symm.trans h)
    exact hkeeps.rk

/-! ### RKREAD -/

/-- RKREAD past its two checks (42_key_schedule.md R466). -/
theorem exec_rkread_success {ridx : Nat} {s : State} (hridx : ridx ≤ 10) (hvalid : s.rkValid = true) :
    exec (.rkread ridx) s = .next { s with st := roundKey s.rk ridx, err := 0x00 } :=
  congrArg Host.Outcome.next (withSchedule_success (decide_eq_true hridx) _ _ hvalid)

/-- Settles O36: the checks in their order; under the invariant RK is the schedule of KEY, whose round key 0 is KEY. -/
theorem rkreadCopiesRoundKey : Obligations.RkreadCopiesRoundKey := by
  refine ⟨ridxEncoding_of_row (m := .rkread) rfl, fun s ridx => ⟨fun hridx => ?_, fun hridx hvalid => ?_,
    exec_rkread_success, fun hvalid hinv => ?_⟩, fun s => ?_⟩
  · exact congrArg Host.Outcome.next (withSchedule_fieldError (decide_eq_false (by omega)) _ _ _)
  · exact congrArg Host.Outcome.next (withSchedule_noKey (decide_eq_true hridx) _ _ hvalid)
  · rw [exec_rkread_success (Nat.zero_le 10) hvalid, hinv.1 hvalid, roundKey_keyExpansion_zero]
  · simp only [execAll, exec_keyexp]
    rw [exec_rkread_success le_rfl rfl, roundKey_fips197_ten]

end Sys2Proof.Machine
end

section
/-! PROOFS. Cipher and InvCipher undo each other, and the single-transform commands compute them on ST (43_block_cipher.md
R480 to R484). -/

namespace Sys2Proof.Machine

/-! ### The round trip -/

@[simp] theorem addRoundKey_addRoundKey (s k : Block) : addRoundKey (addRoundKey s k) k = s :=
  Block.xor_xor_cancel s k

theorem invCipherRound_cipherRound (s k : Block) : invCipherRound (cipherRound s k) k = s := by
  simp only [invCipherRound, cipherRound, addRoundKey_addRoundKey, invMixColumns_mixColumns, invShiftRows_shiftRows,
    invSubBytes_subBytes]

theorem cipherRound_invCipherRound (s k : Block) : cipherRound (invCipherRound s k) k = s := by
  simp only [invCipherRound, cipherRound, subBytes_invSubBytes, shiftRows_invShiftRows, mixColumns_invMixColumns,
    addRoundKey_addRoundKey]

/-- If each step of `g` undoes the step of `f` with the same argument, the arguments in reverse order undo a whole fold. -/
theorem foldl_reverse_foldl {α β : Type} {f g : α → β → α} (h : ∀ a b, g (f a b) b = a) (bs : List β) (a : α) :
    bs.reverse.foldl g (bs.foldl f a) = a := by
  induction bs generalizing a with
  | nil => rfl
  | cons b bs ih => simp only [List.reverse_cons, List.foldl_append, List.foldl_cons, List.foldl_nil, ih, h]

section roundTrip

variable (b : Block) (rk : Vector Block 11)

/-- Rounds 9 down to 1 of R481 undo rounds 1 to 9 of R480. -/
theorem invCipherRounds_cipherRounds :
    [9, 8, 7, 6, 5, 4, 3, 2, 1].foldl (fun s r => invCipherRound s (roundKey rk r))
      ([1, 2, 3, 4, 5, 6, 7, 8, 9].foldl (fun s r => cipherRound s (roundKey rk r)) b) = b :=
  foldl_reverse_foldl (fun s r => invCipherRound_cipherRound s (roundKey rk r)) [1, 2, 3, 4, 5, 6, 7, 8, 9] b

theorem cipherRounds_invCipherRounds :
    [1, 2, 3, 4, 5, 6, 7, 8, 9].foldl (fun s r => cipherRound s (roundKey rk r))
      ([9, 8, 7, 6, 5, 4, 3, 2, 1].foldl (fun s r => invCipherRound s (roundKey rk r)) b) = b :=
  foldl_reverse_foldl (fun s r => cipherRound_invCipherRound s (roundKey rk r)) [9, 8, 7, 6, 5, 4, 3, 2, 1] b

@[simp] theorem invCipher_cipher : invCipher (cipher b rk) rk = b := by
  simp only [invCipher, cipher, addRoundKey_addRoundKey, invShiftRows_shiftRows, invSubBytes_subBytes,
    invCipherRounds_cipherRounds]

@[simp] theorem cipher_invCipher : cipher (invCipher b rk) rk = b := by
  simp only [invCipher, cipher, addRoundKey_addRoundKey, cipherRounds_invCipherRounds, subBytes_invSubBytes,
    shiftRows_invShiftRows]

end roundTrip

/-- Settles O38: each step of one undoes the step of the other that it meets. -/
theorem cipherRoundTrip : Obligations.CipherRoundTrip := fun b rk =>
  ⟨invCipher_cipher b rk, cipher_invCipher b rk⟩

/-- The all-zero block under the all-zero key (43_block_cipher.md R484). -/
theorem cipher_zero :
    cipher Block.zero (keyExpansion Block.zero) = Block.ofHex 0x66e94bd4ef8a2c3b884cfa59ca342b2e := by
  decide +kernel

/-- Settles O40: InvCipher with the same schedule is the inverse on both sides. -/
theorem cipherIsPermutation : Obligations.CipherIsPermutation := by
  refine ⟨fun rk => ⟨fun p q h => ?_, fun c => ⟨invCipher c rk, cipher_invCipher c rk⟩⟩, cipher_zero⟩
  rw [← invCipher_cipher p rk, h, invCipher_cipher]

/-! ### The single-transform commands -/

theorem execAll_append {is : List Instr} {s t : State} (h : execAll is s = .next t) (js : List Instr) :
    execAll (is ++ js) s = execAll js t := by
  induction is generalizing s with
  | nil => exact congrArg (execAll js) (Host.Outcome.next.inj h)
  | cons i is ih =>
    obtain ⟨u, hu⟩ := exec_next i s
    simp only [execAll, hu] at h
    simp only [List.cons_append, execAll, hu, ih h]

/-- From every state with RK_VALID = 1, the commands complete and apply `f`, a function of a block and the schedule, to ST;
they write STATUS.ERR and change nothing else. -/
def ComputesOnSt (is : List Instr) (f : Block → Vector Block 11 → Block) : Prop :=
  ∀ s : State, s.rkValid = true → execAll is s = .next { s with st := f s.st s.rk, err := 0x00 }

theorem ComputesOnSt.append {is js : List Instr} {f g : Block → Vector Block 11 → Block} (hf : ComputesOnSt is f)
    (hg : ComputesOnSt js g) : ComputesOnSt (is ++ js) fun b rk => g (f b rk) rk := fun s hvalid =>
  (execAll_append (hf s hvalid) js).trans (hg _ hvalid)

/-- A first part of the commands, then one group of commands for each round number of a list. -/
theorem ComputesOnSt.append_flatMap {is : List Instr} {js : Nat → List Instr} {f : Block → Vector Block 11 → Block}
    {g : Nat → Block → Vector Block 11 → Block} {rs : List Nat} (hf : ComputesOnSt is f)
    (hg : ∀ r ∈ rs, ComputesOnSt (js r) (g r)) :
    ComputesOnSt (is ++ rs.flatMap js) fun b rk => rs.foldl (fun s r => g r s rk) (f b rk) := by
  induction rs generalizing is f with
  | nil => simpa using hf
  | cons r rs ih =>
    rw [List.forall_mem_cons] at hg
    rw [List.flatMap_cons, ← List.append_assoc]
    exact ih (hf.append hg.1) hg.2

/-- One command without a key, whatever its transform of ST (41_round_transforms.md R440 to R445). -/
theorem transform_computes {i : Instr} {f : Block → Block}
    (hexec : ∀ s, exec i s = .next { s with st := f s.st, err := 0x00 }) : ComputesOnSt [i] fun b _ => f b := by
  intro s _
  rw [execAll, hexec]
  rfl

theorem addroundkey_computes {r : Nat} (hr : r ≤ 10) :
    ComputesOnSt [.addroundkey r] fun b rk => addRoundKey b (roundKey rk r) := by
  intro s hvalid
  rw [execAll, exec_addroundkey_success hr hvalid]
  rfl

theorem subbytes_shiftrows_computes : ComputesOnSt [.subbytes, .shiftrows] fun b _ => shiftRows (subBytes b) :=
  (transform_computes exec_subbytes).append (transform_computes exec_shiftrows)

theorem invShiftrows_invSubbytes_computes :
    ComputesOnSt [.invShiftrows, .invSubbytes] fun b _ => invSubBytes (invShiftRows b) :=
  (transform_computes exec_invShiftrows).append (transform_computes exec_invSubbytes)

/-- The commands of one of the rounds 1..9 of encryption (43_block_cipher.md R480, R483). -/
theorem cipherRound_computes {r : Nat} (hr : r ≤ 10) :
    ComputesOnSt [.subbytes, .shiftrows, .mixcolumns, .addroundkey r] fun b rk => cipherRound b (roundKey rk r) :=
  (subbytes_shiftrows_computes.append (transform_computes exec_mixcolumns)).append (addroundkey_computes hr)

/-- The commands of one of the rounds 9 down to 1 of decryption (43_block_cipher.md R481, R483). -/
theorem invCipherRound_computes {r : Nat} (hr : r ≤ 10) :
    ComputesOnSt [.addroundkey r, .invMixcolumns, .invShiftrows, .invSubbytes]
      fun b rk => invCipherRound b (roundKey rk r) :=
  ((addroundkey_computes hr).append (transform_computes exec_invMixcolumns)).append invShiftrows_invSubbytes_computes

theorem cipherCommands_compute : ComputesOnSt cipherCommands cipher := by
  have hrounds : ∀ r ∈ [1, 2, 3, 4, 5, 6, 7, 8, 9], r ≤ 10 := by decide
  have hfirst := addroundkey_computes (Nat.zero_le 10)
  have hlast := subbytes_shiftrows_computes.append (addroundkey_computes (r := 10) le_rfl)
  exact (hfirst.append_flatMap fun r hr => cipherRound_computes (hrounds r hr)).append hlast

theorem invCipherCommands_compute : ComputesOnSt invCipherCommands invCipher := by
  have hrounds : ∀ r ∈ [9, 8, 7, 6, 5, 4, 3, 2, 1], r ≤ 10 := by decide
  have hfirst := (addroundkey_computes (r := 10) le_rfl).append invShiftrows_invSubbytes_computes
  have hlast := addroundkey_computes (Nat.zero_le 10)
  exact (hfirst.append_flatMap fun r hr => invCipherRound_computes (hrounds r hr)).append hlast

/-- Settles O39: the commands of each round compute the round on ST, and RK stays as it is between them. -/
theorem transformCommandsComputeCipher : Obligations.TransformCommandsComputeCipher := fun s hvalid =>
  ⟨cipherCommands_compute s hvalid, invCipherCommands_compute s hvalid⟩

end Sys2Proof.Machine
end

section
/-! PROOFS. The CTR counter: the two byte orders mirror each other, 8 bytes and a 64-bit value determine each other, and the
increment is a rippling carry (44_modes.md R504, R515). -/

namespace Sys2Proof.Machine

/-! ### The two byte orders -/

/-- The 8 counter bytes in the opposite order. -/
def reverseCounter (b : Column × Column) : Column × Column :=
  (⟨b.2.b3, b.2.b2, b.2.b1, b.2.b0⟩, ⟨b.1.b3, b.1.b2, b.1.b1, b.1.b0⟩)

@[simp] theorem reverseCounter_reverseCounter (b : Column × Column) : reverseCounter (reverseCounter b) = b := rfl

@[simp] theorem counterBytes_reverseCounter (b : Column × Column) :
    counterBytes (reverseCounter b) = (counterBytes b).reverse := rfl

theorem ctrBytes_false (n : BitVec 64) : ctrBytes n false = reverseCounter (ctrBytes n true) := rfl

theorem ctrValue_false (b : Column × Column) : ctrValue b false = ctrValue (reverseCounter b) true := rfl

theorem ctrIncrement_false (b : Column × Column) :
    ctrIncrement b false = reverseCounter (ctrIncrement (reverseCounter b) true) := rfl

/-! ### Bytes and value -/

theorem toNat_append_add {m n : Nat} (x : BitVec m) (y : BitVec n) : (x ++ y).toNat = x.toNat * 2 ^ n + y.toNat := by
  rw [BitVec.toNat_append, ← Nat.shiftLeft_add_eq_or_of_lt y.isLt, Nat.shiftLeft_eq]

/-- The value of the bytes as the digits of a number in base 256, least significant first (44_modes.md R504). -/
theorem ctrValue_true_toNat_eq_ofDigits (b : Column × Column) :
    (ctrValue b true).toNat = Nat.ofDigits 256 ((counterBytes b).map BitVec.toNat) := by
  simp only [ctrValue, if_true, toNat_append_add, counterBytes, List.map, Nat.ofDigits_cons, Nat.ofDigits_nil]
  omega

theorem counterBytes_injective : Function.Injective counterBytes := by
  rintro ⟨v, w⟩ ⟨v', w'⟩ h
  simp only [counterBytes, List.cons.injEq, and_true] at h
  obtain ⟨h0, h1, h2, h3, h4, h5, h6, h7⟩ := h
  exact Prod.ext (Column.ext_bytes h0 h1 h2 h3) (Column.ext_bytes h4 h5 h6 h7)

theorem byte_digits_lt (bs : List Byte) : ∀ d ∈ bs.map BitVec.toNat, d < 256 := by
  rw [List.forall_mem_map]
  exact fun b _ => b.isLt

/-- Byte lists of one length are equal if they are the digits of the same number. -/
theorem bytes_eq_of_ofDigits_eq {l l' : List Byte} (hlen : l.length = l'.length)
    (h : Nat.ofDigits 256 (l.map BitVec.toNat) = Nat.ofDigits 256 (l'.map BitVec.toNat)) : l = l' := by
  have hmap := Nat.ofDigits_inj_of_len_eq (by decide) (by simpa using hlen) (byte_digits_lt l) (byte_digits_lt l') h
  exact List.map_injective_iff.2 (fun _ _ => BitVec.eq_of_toNat_eq) hmap

theorem ctrValue_true_injective : Function.Injective (ctrValue · true) := fun b b' h =>
  counterBytes_injective <| bytes_eq_of_ofDigits_eq rfl <| by
    rw [← ctrValue_true_toNat_eq_ofDigits, ← ctrValue_true_toNat_eq_ofDigits]
    exact congrArg BitVec.toNat h

/-- The bytes of a value have this value (44_modes.md R504). -/
@[simp] theorem ctrValue_ctrBytes (n : BitVec 64) (le : Bool) : ctrValue (ctrBytes n le) le = n := by
  have htrue : ctrValue (ctrBytes n true) true = n := by
    apply BitVec.eq_of_toNat_eq
    have hn := n.isLt
    rw [ctrValue_true_toNat_eq_ofDigits]
    simp only [ctrBytes, ctrByte, if_true, counterBytes, List.map, Nat.ofDigits_cons, Nat.ofDigits_nil,
      BitVec.extractLsb'_toNat, Nat.shiftRight_eq_div_pow]
    omega
  cases le
  · rw [ctrBytes_false, ctrValue_false, reverseCounter_reverseCounter, htrue]
  · exact htrue

/-- Counter bytes are the bytes of their value, for no other bytes have this value. -/
@[simp] theorem ctrBytes_ctrValue (b : Column × Column) (le : Bool) : ctrBytes (ctrValue b le) le = b := by
  have htrue (b : Column × Column) : ctrBytes (ctrValue b true) true = b :=
    ctrValue_true_injective (ctrValue_ctrBytes (ctrValue b true) true)
  cases le
  · rw [ctrBytes_false, ctrValue_false, htrue, reverseCounter_reverseCounter]
  · exact htrue b

/-- The sum of the rule (44_modes.md R504). -/
theorem ctrValue_true_toNat_eq_sum (b : Column × Column) :
    (ctrValue b true).toNat = ((counterBytes b).zipIdx.map fun p => p.1.toNat * 256 ^ p.2).sum := by
  rw [ctrValue_true_toNat_eq_ofDigits, Nat.ofDigits_eq_sum_mapIdx, List.mapIdx_eq_zipIdx_map, List.zipIdx_map, List.map_map]
  rfl

/-! ### The increment -/

/-- The carry out of the most significant byte is discarded (44_modes.md R515). -/
theorem ctrIncrement_wrap (le : Bool) :
    ctrIncrement (⟨0xFF, 0xFF, 0xFF, 0xFF⟩, ⟨0xFF, 0xFF, 0xFF, 0xFF⟩) le = (⟨0, 0, 0, 0⟩, ⟨0, 0, 0, 0⟩) := by
  revert le
  decide

theorem rippleIncrement_length (bs : List Byte) : (rippleIncrement bs).length = bs.length := by
  induction bs with
  | nil => rfl
  | cons b bs ih =>
    rw [rippleIncrement]
    split <;> simp [ih]

theorem ofDigits_bytes_lt (bs : List Byte) : Nat.ofDigits 256 (bs.map BitVec.toNat) < 256 ^ bs.length := by
  have h := Nat.ofDigits_lt_base_pow_length (by decide) (byte_digits_lt bs)
  rwa [List.length_map] at h

/-- A rippling carry adds 1 modulo the power of 256 that the bytes can hold. -/
theorem ofDigits_rippleIncrement (bs : List Byte) :
    Nat.ofDigits 256 ((rippleIncrement bs).map BitVec.toNat) =
      (Nat.ofDigits 256 (bs.map BitVec.toNat) + 1) % 256 ^ bs.length := by
  induction bs with
  | nil => rfl
  | cons b bs ih =>
    simp only [List.map_cons, Nat.ofDigits_cons, List.length_cons, Nat.pow_succ', rippleIncrement]
    split
    · next hff =>
      have hcarry (v : Nat) : 256 * (v + 1) = 255 + 256 * v + 1 := by omega
      rw [List.map_cons, Nat.ofDigits_cons, ih, hff, ← Nat.mul_mod_mul_left]
      exact (Nat.zero_add _).trans (congrArg (· % _) (hcarry _))
    · next hff =>
      have hbound := ofDigits_bytes_lt bs
      have hb : b.toNat + 1 < 256 := by
        have hne : b.toNat ≠ 255 := fun h => hff (BitVec.eq_of_toNat_eq h)
        omega
      have hadd : (b + 1).toNat = b.toNat + 1 := BitVec.toNat_add_of_lt hb
      rw [List.map_cons, Nat.ofDigits_cons, hadd, Nat.mod_eq_of_lt (by omega)]
      omega

theorem ctrIncrement_true_ripples (b : Column × Column) :
    counterBytes (ctrIncrement b true) = rippleIncrement (counterBytes b) := by
  apply bytes_eq_of_ofDigits_eq
  · rw [rippleIncrement_length]
    rfl
  · rw [ofDigits_rippleIncrement, ← ctrValue_true_toNat_eq_ofDigits, ← ctrValue_true_toNat_eq_ofDigits, ctrIncrement, ctrValue_ctrBytes]
    have hlength : 256 ^ (counterBytes b).length = 2 ^ 64 := by norm_num [counterBytes]
    rw [BitVec.toNat_add, hlength]
    rfl

/-- Settles O44: the big-endian order is the little-endian one mirrored, and a carry that ripples adds 1 to the number whose
digits the bytes are. -/
theorem ctrIncrementRipples : Obligations.CtrIncrementRipples := by
  refine ⟨fun nonce n le => ⟨ctrValue_ctrBytes n le, rfl, rfl, rfl⟩, fun b => ⟨ctrValue_true_toNat_eq_sum b, ?_,
    fun le => ?_, ctrIncrement_true_ripples b, ?_⟩, by decide, by decide, ctrIncrement_wrap, rfl⟩
  · exact ctrValue_true_toNat_eq_sum (reverseCounter b)
  · rw [ctrIncrement]
    congr 1
    apply BitVec.eq_of_toNat_eq
    simp [BitVec.toNat_add]
  · rw [ctrIncrement_false, counterBytes_reverseCounter, ctrIncrement_true_ripples, counterBytes_reverseCounter]

end Sys2Proof.Machine
end

section
/-! PROOFS. The commands with LEN: their encoding, the order of their checks and their effects, and the registers that every
command leaves as they were (44_modes.md R510 to R514; the table of 10_state.md section 1). -/

namespace Sys2Proof.Machine

/-! ### The encoding of a command with LEN -/

/-- Bits above OP that a row fixes to 0 are 0 in a word that has no 1 in a reserved bit. -/
theorem extractLsb'_eq_zero_of_masked {w : Word32} {m : Mnemonic} (h : (w &&& m.mask) >>> 8 = 0) (k len : Nat)
    (hmask : m.mask.extractLsb' (8 + k) len = BitVec.allOnes len) : w.extractLsb' (8 + k) len = 0 :=
  calc w.extractLsb' (8 + k) len = (w &&& m.mask).extractLsb' (8 + k) len := by
        rw [BitVec.extractLsb'_and, hmask, BitVec.and_allOnes]
    _ = ((w &&& m.mask) >>> 8).extractLsb' k len := by
        apply BitVec.eq_of_getLsbD_eq
        simp [← Nat.add_assoc]
    _ = 0 := by rw [h, BitVec.ofNat_eq_ofNat, BitVec.extractLsb'_zero]; rfl

/-- A command whose row leaves LEN free alone has one word for each count, and a 1 in bits 31:21 or 15:8 is illegal
(30_encoding.md R304, R305). -/
theorem lenEncoding_of_row {m : Mnemonic} (hm : usesLen m = true) : lenEncoding (fun len => m.command 0 len) m.op := by
  refine ⟨fun len hlen => ?_, fun w s hop hbits => ?_⟩
  · have hencode : encode (m.command 0 len) = m.op.setWidth 32 ||| (BitVec.ofNat 32 len <<< 16) := by
      rw [encode_eq, mnemonic_command, ridx_command, len_command, if_pos hm, ite_self]
      exact congrArg (· ||| _) BitVec.or_zero
    have hwf : (m.command 0 len).wf = true := by
      rw [wf_iff, ridx_command, len_command, if_pos hm, ite_self]
      exact ⟨by decide, hlen⟩
    rw [← hencode, decodeOfEncode _ hwf]
  · obtain ⟨-, hreserved, -⟩ := reservedWordsFailIllegal w s
    have hmask : m.mask = 0xFFE0FFFF := by
      rcases (usesLen_iff m).1 hm with rfl | rfl | rfl | rfl | rfl <;> rfl
    refine hreserved m hop fun h => ?_
    rcases hbits with hhigh | hlow
    · exact hhigh (extractLsb'_eq_zero_of_masked h 13 11 (by rw [hmask]; rfl))
    · exact hlow (extractLsb'_eq_zero_of_masked h 0 8 (by rw [hmask]; rfl))

/-! ### The checks of a command -/

/-- The first check is the operand: a command that fails it writes its code and nothing else (60_exceptions.md R601,
R602). -/
theorem exec_of_fieldError {i : Instr} {e : CmdStatus} (h : fieldError i = some e) (s : State) :
    exec i s = .next { s with err := errCode e } := by
  cases i with
  | nop | keyexp | subbytes | invSubbytes | shiftrows | invShiftrows | mixcolumns | invMixcolumns | gfmul => cases h
  | rkread ridx | addroundkey ridx =>
    obtain ⟨hridx, rfl⟩ : 10 < ridx ∧ CmdStatus.ridx = e := by simpa [fieldError] using h
    exact congrArg Host.Outcome.next (withSchedule_fieldError (decide_eq_false (by omega)) _ _ _)
  | ecbEnc len | ecbDec len | cbcEnc len | cbcDec len =>
    obtain ⟨hlen, rfl⟩ : ¬ len = 16 ∧ CmdStatus.length = e := by simpa [fieldError] using h
    exact congrArg Host.Outcome.next (withSchedule_fieldError (decide_eq_false hlen) _ _ _)
  | ctrXcrypt len =>
    obtain ⟨hlen, rfl⟩ : (len = 0 ∨ 16 < len) ∧ CmdStatus.length = e := by simpa [fieldError] using h
    exact congrArg Host.Outcome.next (withSchedule_fieldError (decide_eq_false (by omega)) _ _ _)

/-- The second check is RK_VALID (60_exceptions.md R602). -/
theorem exec_of_noKey {i : Instr} {s : State} (hfield : fieldError i = none) (hkeys : needsKeys i = true)
    (hvalid : s.rkValid = false) : exec i s = .next { s with err := 0x04 } := by
  cases i with
  | nop | keyexp | subbytes | invSubbytes | shiftrows | invShiftrows | mixcolumns | invMixcolumns | gfmul => cases hkeys
  | rkread ridx | addroundkey ridx =>
    have hridx : ridx ≤ 10 := by simpa [fieldError] using hfield
    exact congrArg Host.Outcome.next (withSchedule_noKey (decide_eq_true hridx) _ _ hvalid)
  | ecbEnc len | ecbDec len | cbcEnc len | cbcDec len =>
    have hlen : len = 16 := by simpa [fieldError] using hfield
    exact congrArg Host.Outcome.next (withSchedule_noKey (decide_eq_true hlen) _ _ hvalid)
  | ctrXcrypt len =>
    have hlen : 1 ≤ len ∧ len ≤ 16 := by simpa [fieldError, Nat.one_le_iff_ne_zero] using hfield
    exact congrArg Host.Outcome.next (withSchedule_noKey (decide_eq_true hlen) _ _ hvalid)

theorem withWholeBlock_success (effect : State → State) {s : State} (hvalid : s.rkValid = true) :
    withWholeBlock 16 effect s = { effect s with err := 0x00 } :=
  withSchedule_success rfl _ _ hvalid

/-- Two commands one after the other (45_system.md R562). -/
theorem execAll_pair {i j : Instr} {s t : State} (h : exec i s = .next t) : execAll [i, j] s = exec j t := by
  obtain ⟨u, hu⟩ := exec_next j t
  simp only [execAll, h, hu]

/-! ### ECB_ENC and ECB_DEC -/

theorem exec_ecbEnc_success {s : State} (hvalid : s.rkValid = true) :
    exec (.ecbEnc 16) s = .next { s with dout := cipher s.din s.rk, err := 0x00 } :=
  congrArg Host.Outcome.next (withWholeBlock_success _ hvalid)

theorem exec_ecbDec_success {s : State} (hvalid : s.rkValid = true) :
    exec (.ecbDec 16) s = .next { s with dout := invCipher s.din s.rk, err := 0x00 } :=
  congrArg Host.Outcome.next (withWholeBlock_success _ hvalid)

/-- The first block of SP 800-38A F.1.1, the example of both commands (44_modes.md R510, R511). -/
theorem cipher_sp80038a :
    cipher (Block.ofHex 0x6bc1bee22e409f96e93d7e117393172a) (keyExpansion (Block.ofHex 0x2b7e151628aed2a6abf7158809cf4f3c)) =
      Block.ofHex 0x3ad77bb40d7a3660a89ecaf32466ef97 := by
  decide +kernel

/-- Settles O41: the checks in their order; the round trips are `invCipher_cipher`. -/
theorem ecbCommands : Obligations.EcbCommands := by
  refine ⟨lenEncoding_of_row (m := .ecbEnc) rfl, lenEncoding_of_row (m := .ecbDec) rfl, fun s len => ⟨fun hlen => ?_,
    fun hvalid => ?_, fun hvalid => ⟨exec_ecbEnc_success hvalid, exec_ecbDec_success hvalid, ?_, ?_⟩⟩, cipher_zero,
    cipher_sp80038a, ?_⟩
  · exact ⟨exec_of_fieldError (i := .ecbEnc len) (if_neg hlen) s, exec_of_fieldError (i := .ecbDec len) (if_neg hlen) s⟩
  · exact ⟨exec_of_noKey rfl rfl hvalid, exec_of_noKey rfl rfl hvalid⟩
  · have hfirst := exec_ecbEnc_success hvalid
    rw [execAll_pair hfirst, hfirst]
    exact exec_ecbEnc_success hvalid
  · exact ⟨_, _, exec_ecbEnc_success hvalid, exec_ecbDec_success hvalid, invCipher_cipher s.din s.rk⟩
  · rw [← cipher_sp80038a, invCipher_cipher]

/-! ### CBC_ENC and CBC_DEC -/

theorem exec_cbcEnc_success {s : State} (hvalid : s.rkValid = true) :
    exec (.cbcEnc 16) s =
      .next { s with dout := cipher (s.din.xor s.iv) s.rk, iv := cipher (s.din.xor s.iv) s.rk, err := 0x00 } :=
  congrArg Host.Outcome.next (withWholeBlock_success _ hvalid)

theorem exec_cbcDec_success {s : State} (hvalid : s.rkValid = true) :
    exec (.cbcDec 16) s = .next { s with dout := (invCipher s.din s.rk).xor s.iv, iv := s.din, err := 0x00 } :=
  congrArg Host.Outcome.next (withWholeBlock_success _ hvalid)

/-- The first block of SP 800-38A F.2.1, the example of both commands (44_modes.md R512, R513). -/
theorem cbc_sp80038a :
    cipher ((Block.ofHex 0x6bc1bee22e409f96e93d7e117393172a).xor (Block.ofHex 0x000102030405060708090a0b0c0d0e0f))
      (keyExpansion (Block.ofHex 0x2b7e151628aed2a6abf7158809cf4f3c)) = Block.ofHex 0x7649abac8119b246cee98e9b12e9197d := by
  decide +kernel

/-- Settles O42: the checks in their order. A mask on DIN reaches the next DOUT because CBC_DEC leaves DIN in IV. -/
theorem cbcCommands : Obligations.CbcCommands := by
  refine ⟨lenEncoding_of_row (m := .cbcEnc) rfl, lenEncoding_of_row (m := .cbcDec) rfl, fun s len => ⟨fun hlen => ?_,
    fun hvalid => ?_, fun hvalid => ⟨exec_cbcEnc_success hvalid, exec_cbcDec_success hvalid, fun hiv => ?_,
      fun mask nextBlock => ?_⟩⟩, cbc_sp80038a, ?_⟩
  · exact ⟨exec_of_fieldError (i := .cbcEnc len) (if_neg hlen) s, exec_of_fieldError (i := .cbcDec len) (if_neg hlen) s⟩
  · exact ⟨exec_of_noKey rfl rfl hvalid, exec_of_noKey rfl rfl hvalid⟩
  · refine ⟨_, _, exec_cbcEnc_success hvalid, exec_ecbEnc_success hvalid, ?_⟩
    dsimp only
    rw [hiv, Block.xor_zero]
  · exact ⟨_, _, _, _, exec_cbcDec_success hvalid, exec_cbcDec_success hvalid, exec_cbcDec_success hvalid,
      exec_cbcDec_success hvalid, (Block.xor_assoc _ _ _).symm⟩
  · rw [← cbc_sp80038a, invCipher_cipher, Block.xor_xor_cancel]

/-! ### CTR_XCRYPT -/

@[simp] theorem xorFirst_byte (len : Nat) (d ks : Block) (i : Fin 16) :
    (xorFirst len d ks).byte i = if i.val < len then d.byte i ^^^ ks.byte i else 0x00 :=
  Block.byte_ofBytes _ i

/-- Only the first `len` bytes are read (44_modes.md R514). -/
theorem xorFirst_congr {len : Nat} {d d' : Block} (h : ∀ i : Fin 16, i.val < len → d.byte i = d'.byte i) (ks : Block) :
    xorFirst len d ks = xorFirst len d' ks :=
  Block.ext_byte fun i => by
    rw [xorFirst_byte, xorFirst_byte]
    split
    · rw [h i ‹_›]
    · rfl

theorem exec_ctrXcrypt_success {len : Nat} {s : State} (h1 : 1 ≤ len) (h16 : len ≤ 16) (hvalid : s.rkValid = true) :
    exec (.ctrXcrypt len) s =
      .next { s with dout := xorFirst len s.din (cipher s.iv s.rk), iv := advanceCounter s.iv s.ctrLe, err := 0x00 } :=
  congrArg Host.Outcome.next (withSchedule_success (decide_eq_true ⟨h1, h16⟩) _ _ hvalid)

/-- The example of CTR_XCRYPT (44_modes.md R514). -/
theorem ctr_example :
    xorFirst 16 (Block.ofHex 0x2fbee76bf9eb16c2afca777a1f33a81b)
      (cipher Block.zero (keyExpansion (Block.ofHex 0x59454c4c4f57205355424d4152494e45))) =
      Block.ofHex 0x596f2c20564950204c65742773206b69 := by
  decide +kernel

/-- Settles O43: the checks in their order; the counter half is `ctrIncrement`, which wraps to 0. -/
theorem ctrCommand : Obligations.CtrCommand := by
  refine ⟨lenEncoding_of_row (m := .ctrXcrypt) rfl, fun s len => ⟨fun hlen => ?_, fun h1 h16 hvalid => ?_,
    fun h1 h16 hvalid => ?_⟩, fun s => ?_⟩
  · exact exec_of_fieldError (i := .ctrXcrypt len) (if_pos hlen) s
  · exact exec_of_noKey (if_neg (by omega)) rfl hvalid
  · refine ⟨_, exec_ctrXcrypt_success h1 h16 hvalid, rfl, xorFirst_byte len _ _, rfl, rfl, rfl, fun h2 h3 => ?_,
      fun d hd => ?_⟩
    · have hwrap : ctrIncrement (s.iv.c2, s.iv.c3) s.ctrLe = (⟨0, 0, 0, 0⟩, ⟨0, 0, 0, 0⟩) := by
        rw [h2, h3, ctrIncrement_wrap]
      exact ⟨congrArg Prod.fst hwrap, congrArg Prod.snd hwrap⟩
    · rw [exec_ctrXcrypt_success (s := { s with din := d }) h1 h16 hvalid, xorFirst_congr hd]
  · have hcounter : advanceCounter Block.zero true = Block.ofHex 0x00000000000000000100000000000000 := by decide
    rw [exec_ctrXcrypt_success (by decide) le_rfl rfl, ctr_example, hcounter]

/-! ### The registers a command leaves as they were -/

/-- What holds after every failure and after success holds after a command that uses the round keys. -/
theorem withSchedule_induction {P : State → Prop} {s : State} {effect : State → State}
    (fail : ∀ e, P (raiseCmdError e s)) (success : P (succeed (effect s))) (fieldOk : Bool) (e : CmdStatus) :
    P (withSchedule fieldOk e effect s) := by
  rcases withSchedule_cases fieldOk e effect s with ⟨_, h⟩ | ⟨_, _, h⟩ | ⟨_, _, h⟩ <;> rw [h]
  · exact fail e
  · exact fail .noKey
  · exact success

/-- Settles O19: a failed command writes STATUS.ERR alone, and each effect writes its own registers. -/
theorem commandsKeepOtherRegisters : Obligations.CommandsKeepOtherRegisters := by
  intro i s t h
  cases i <;> obtain rfl := Host.Outcome.next.inj h
  case nop | keyexp | subbytes | invSubbytes | shiftrows | invShiftrows | mixcolumns | invMixcolumns | gfmul => rfl
  case rkread | addroundkey =>
    exact withSchedule_induction (P := fun t => t = { s with st := t.st, err := t.err }) (fun _ => rfl) rfl _ _
  case ecbEnc | ecbDec =>
    exact withSchedule_induction (P := fun t => t = { s with dout := t.dout, err := t.err }) (fun _ => rfl) rfl _ _
  case cbcEnc | cbcDec =>
    exact withSchedule_induction (P := fun t => t = { s with dout := t.dout, iv := t.iv, err := t.err }) (fun _ => rfl) rfl
      _ _
  case ctrXcrypt =>
    exact withSchedule_induction
      (P := fun t => t = { s with dout := t.dout, iv := t.iv, err := t.err } ∧ t.iv.c0 = s.iv.c0 ∧ t.iv.c1 = s.iv.c1)
      (fun _ => ⟨rfl, rfl, rfl⟩) ⟨rfl, rfl, rfl⟩ _ _

end Sys2Proof.Machine
end

section
/-! PROOFS. Messages: cutting them into blocks, ECB, CBC and CTR as functions of whole messages, and a host's streaming of a
message through the mode commands (44_modes.md R500 to R506, R516, R517). -/

namespace Sys2Proof.Machine

/-! ### The bytes of a block -/

theorem toBytes_eq_ofFn (b : Block) : b.toBytes = List.ofFn b.byte := by
  simp only [List.ofFn_succ, List.ofFn_zero]
  rfl

theorem toBytes_getElem (b : Block) (i : Nat) (hi : i < b.toBytes.length) : b.toBytes[i] = b.byte ⟨i, hi⟩ := by
  simp only [toBytes_eq_ofFn, List.getElem_ofFn]

theorem loadPartial_byte (m : List Byte) (old : Block) (i : Fin 16) :
    (loadPartial m old).byte i = (m[i.val]?).getD (old.byte i) :=
  Block.byte_ofBytes _ i

/-- The bytes written to DIN are its first bytes (44_modes.md R516). -/
theorem take_toBytes_loadPartial {m : List Byte} (hm : m.length ≤ 16) (old : Block) :
    (loadPartial m old).toBytes.take m.length = m := by
  refine List.ext_getElem (by simpa using hm) fun i _ hi => ?_
  rw [List.getElem_take, toBytes_getElem, loadPartial_byte, List.getElem?_eq_getElem hi, Option.getD_some]

/-- The first bytes that CTR_XCRYPT leaves in DOUT (44_modes.md R514). -/
theorem take_toBytes_xorFirst (len : Nat) (d ks : Block) :
    (xorFirst len d ks).toBytes.take len = List.zipWith (fun d k => d ^^^ k) (d.toBytes.take len) ks.toBytes := by
  refine List.ext_getElem (by simp) fun i hi _ => ?_
  have hilen : i < len := (List.length_take ▸ hi).trans_le (Nat.min_le_left _ _)
  simp only [List.getElem_take, List.getElem_zipWith, toBytes_getElem, xorFirst_byte, if_pos hilen]

/-! ### The blocks of a message -/

theorem bytesOf_cons (b : Block) (bs : List Block) : bytesOf (b :: bs) = b.toBytes ++ bytesOf bs := rfl

theorem bytesOf_length (bs : List Block) : (bytesOf bs).length = 16 * bs.length := by
  induction bs with
  | nil => rfl
  | cons b bs ih =>
    rw [bytesOf_cons, List.length_append, ih, Block.toBytes_length, List.length_cons]
    omega

theorem blocksOf_bytesOf (bs : List Block) : blocksOf (bytesOf bs) = some bs := by
  induction bs with
  | nil => rfl
  | cons b bs ih =>
    rw [bytesOf_cons]
    simp only [Block.toBytes, List.cons_append, List.nil_append, blocksOf, ih, Option.map_some]

/-- A message of full length starts with a block. -/
theorem exists_block_of_length {m : List Byte} (hm : 16 ≤ m.length) : ∃ b : Block, b.toBytes = m.take 16 := by
  refine ⟨loadPartial (m.take 16) Block.zero, ?_⟩
  have hlen : (m.take 16).length = 16 := by simpa using hm
  have htake := take_toBytes_loadPartial hlen.le Block.zero
  rwa [hlen, List.take_of_length_le (Block.toBytes_length _).le] at htake

/-- A message whose length is a multiple of 16 is a list of blocks (44_modes.md R500). -/
theorem exists_blocks_of_length {m : List Byte} (n : Nat) (hm : m.length = 16 * n) : ∃ bs, m = bytesOf bs := by
  induction n generalizing m with
  | zero => exact ⟨[], List.length_eq_zero_iff.1 hm⟩
  | succ n ih =>
    obtain ⟨b, hb⟩ := exists_block_of_length (m := m) (by omega)
    obtain ⟨bs, hbs⟩ := ih (m := m.drop 16) (by rw [List.length_drop]; omega)
    exact ⟨b :: bs, by rw [bytesOf_cons, hb, ← hbs, List.take_append_drop]⟩

theorem bytesOf_of_blocksOf {m : List Byte} {bs : List Block} (h : blocksOf m = some bs) : bytesOf bs = m := by
  fun_induction blocksOf m generalizing bs with
  | case1 => cases h; rfl
  | case2 a0 a1 a2 a3 a4 a5 a6 a7 a8 a9 a10 a11 a12 a13 a14 a15 rest ih =>
    obtain ⟨bs', hbs', rfl⟩ := Option.map_eq_some_iff.1 h
    rw [bytesOf_cons, ih hbs']
    rfl
  | case3 => cases h

theorem blocksOf_eq_some_iff {m : List Byte} {bs : List Block} : blocksOf m = some bs ↔ m = bytesOf bs :=
  ⟨fun h => (bytesOf_of_blocksOf h).symm, fun h => h ▸ blocksOf_bytesOf bs⟩

/-- Exactly the messages of another length have no blocks (44_modes.md R500, R517). -/
theorem blocksOf_eq_none_iff {m : List Byte} : blocksOf m = none ↔ m.length % 16 ≠ 0 := by
  rw [Option.eq_none_iff_forall_ne_some]
  refine ⟨fun h hlen => ?_, fun h bs hbs => h ?_⟩
  · obtain ⟨bs, hbs⟩ := exists_blocks_of_length (m.length / 16) (m := m) (by omega)
    exact h bs (blocksOf_eq_some_iff.2 hbs)
  · rw [blocksOf_eq_some_iff.1 hbs, bytesOf_length, Nat.mul_mod_right]

/-! ### ECB and CBC messages -/

theorem onBlocks_eq_malformedInput_iff (f : List Block → List Block) (m : List Byte) :
    onBlocks f m = .malformedInput ↔ m.length % 16 ≠ 0 := by
  rw [← blocksOf_eq_none_iff, onBlocks]
  cases blocksOf m <;> simp

theorem onBlocks_bytesOf (f : List Block → List Block) (bs : List Block) :
    onBlocks f (bytesOf bs) = .bytes (bytesOf (f bs)) := by
  rw [onBlocks, blocksOf_bytesOf]

theorem onBlocks_eq_bytes_iff {f : List Block → List Block} {m c : List Byte} :
    onBlocks f m = .bytes c ↔ ∃ bs, m = bytesOf bs ∧ c = bytesOf (f bs) := by
  constructor
  · intro h
    rw [onBlocks] at h
    split at h
    · next bs hbs => exact ⟨bs, blocksOf_eq_some_iff.1 hbs, (MessageResult.bytes.inj h).symm⟩
    · cases h
  · rintro ⟨bs, rfl, rfl⟩
    exact onBlocks_bytesOf f bs

/-- A function of blocks that undoes another and keeps their number undoes it on messages. -/
theorem onBlocks_leftInverse {f g : List Block → List Block} (hgf : Function.LeftInverse g f)
    (hlen : ∀ bs, (f bs).length = bs.length) {m c : List Byte} (h : onBlocks f m = .bytes c) :
    onBlocks g c = .bytes m ∧ c.length = m.length := by
  obtain ⟨bs, rfl, rfl⟩ := onBlocks_eq_bytes_iff.1 h
  rw [onBlocks_bytesOf, hgf, bytesOf_length, bytesOf_length, hlen]
  exact ⟨rfl, rfl⟩

/-- Each block is undone with the same previous ciphertext block (44_modes.md R502, R503). -/
theorem cbcDecryptBlocks_cbcEncryptBlocks (rk : Vector Block 11) (prev : Block) (bs : List Block) :
    cbcDecryptBlocks rk prev (cbcEncryptBlocks rk prev bs) = bs := by
  induction bs generalizing prev with
  | nil => rfl
  | cons b bs ih => rw [cbcEncryptBlocks, cbcDecryptBlocks, ih, invCipher_cipher, Block.xor_xor_cancel]

theorem cbcEncryptBlocks_length (rk : Vector Block 11) (prev : Block) (bs : List Block) :
    (cbcEncryptBlocks rk prev bs).length = bs.length := by
  induction bs generalizing prev with
  | nil => rfl
  | cons b bs ih => rw [cbcEncryptBlocks, List.length_cons, ih, List.length_cons]

/-- Settles O45: all four functions are `onBlocks`, and the functions of blocks undo each other. -/
theorem ecbCbcMessagesRoundTrip : Obligations.EcbCbcMessagesRoundTrip := by
  refine fun key iv m c => ⟨fun h => ?_, fun h => ?_, onBlocks_eq_malformedInput_iff _ m,
    onBlocks_eq_malformedInput_iff _ m, onBlocks_eq_malformedInput_iff _ m, onBlocks_eq_malformedInput_iff _ m⟩
  · exact onBlocks_leftInverse (fun bs => by simp [Function.comp_def]) (fun bs => List.length_map _) h
  · exact onBlocks_leftInverse (cbcDecryptBlocks_cbcEncryptBlocks _ _) (cbcEncryptBlocks_length _ _) h

/-- A mask on the previous ciphertext block reaches the first plaintext block alone (44_modes.md R506). -/
theorem cbcDecryptBlocks_xor_iv (rk : Vector Block 11) (iv d : Block) (cs : List Block) (i : Nat) :
    (cbcDecryptBlocks rk (iv.xor d) cs)[i]? =
      if i = 0 then (cbcDecryptBlocks rk iv cs)[i]?.map (fun p => p.xor d) else (cbcDecryptBlocks rk iv cs)[i]? := by
  cases cs with
  | nil => simp [cbcDecryptBlocks]
  | cons c cs =>
    cases i with
    | zero => simp [cbcDecryptBlocks, Block.xor_assoc]
    | succ i => simp [cbcDecryptBlocks]

/-- A mask on one ciphertext block, by induction on the blocks before it: its own plaintext block is decrypted from it, and
to the blocks after it the mask is one on the IV (`cbcDecryptBlocks_xor_iv`). -/
theorem cbcDecryptBlocks_xor_block (rk : Vector Block 11) (iv c d : Block) (before after : List Block) (i : Nat) :
    (cbcDecryptBlocks rk iv (before ++ c.xor d :: after))[i]? =
      if i = before.length then
        (cbcDecryptBlocks rk iv (before ++ c :: after))[i]?.map
          (fun p => p.xor ((invCipher (c.xor d) rk).xor (invCipher c rk)))
      else if i = before.length + 1 then
        (cbcDecryptBlocks rk iv (before ++ c :: after))[i]?.map (fun p => p.xor d)
      else (cbcDecryptBlocks rk iv (before ++ c :: after))[i]? := by
  induction before generalizing iv i with
  | nil =>
    cases i with
    | zero =>
      have hown (x y : Block) : x.xor iv = (y.xor iv).xor (x.xor y) := by
        rw [Block.xor_comm x y, Block.xor_comm y iv, ← Block.xor_assoc, Block.xor_xor_cancel, Block.xor_comm]
      simp [cbcDecryptBlocks, ← hown]
    | succ i => simpa [cbcDecryptBlocks] using cbcDecryptBlocks_xor_iv rk c d after i
  | cons b before ih =>
    cases i with
    | zero => simp [cbcDecryptBlocks]
    | succ i => simpa [cbcDecryptBlocks] using ih b i

/-- Settles O47: a mask on a block and a mask on the IV, each on the loop of CBC decryption. -/
theorem cbcErrorPropagation : Obligations.CbcErrorPropagation := fun rk iv c d before after i =>
  ⟨cbcDecryptBlocks_xor_block rk iv c d before after i, cbcDecryptBlocks_xor_iv rk iv d before i⟩

/-! ### CTR messages -/

/-- The bytes of `n` keystream blocks from counter value `c` (44_modes.md R505); `ctrLoop` XORs the message with them
(`ctrLoop_eq_zipWith`). -/
def ctrKeystream (rk : Vector Block 11) (nonce : Column × Column) (le : Bool) : Nat → BitVec 64 → List Byte
  | 0, _ => []
  | n + 1, c => (cipher (ctrBlock nonce c le) rk).toBytes ++ ctrKeystream rk nonce le n (c + 1)

section keystream

variable (rk : Vector Block 11) (nonce : Column × Column) (le : Bool)

theorem ctrKeystream_length (n : Nat) (c : BitVec 64) : (ctrKeystream rk nonce le n c).length = 16 * n := by
  induction n generalizing c with
  | zero => rfl
  | succ n ih =>
    rw [ctrKeystream, List.length_append, ih, Block.toBytes_length]
    omega

theorem ctrLoop_eq_zipWith (n : Nat) (c : BitVec 64) (p : List Byte) :
    ctrLoop rk nonce le n c p = List.zipWith (fun d k => d ^^^ k) p (ctrKeystream rk nonce le n c) := by
  induction n generalizing c p with
  | zero => rw [ctrLoop, ctrKeystream, List.zipWith_nil_right]
  | succ n ih =>
    rw [ctrLoop, ih, ctrKeystream, ← List.take_append_drop 16 (List.zipWith _ p _), List.take_zipWith, List.drop_zipWith,
      List.take_left' (Block.toBytes_length _), List.drop_left' (Block.toBytes_length _)]

end keystream

/-- CTR XORs the message with a keystream at least as long, which depends on the message's length alone. -/
theorem ctrCrypt_eq_zipWith (key : Block) (nonce : Option (Column × Column)) (le : Bool) (c0 : BitVec 64) (len : Nat) :
    ∃ ks : List Byte, len ≤ ks.length ∧
      ∀ m : List Byte, m.length = len → ctrCrypt key nonce m le c0 = List.zipWith (fun d k => d ^^^ k) m ks := by
  refine ⟨ctrKeystream (keyExpansion key) (nonce.getD (⟨0, 0, 0, 0⟩, ⟨0, 0, 0, 0⟩)) le ((len + 15) / 16) c0, ?_, ?_⟩
  · rw [ctrKeystream_length]
    omega
  · rintro m rfl
    exact ctrLoop_eq_zipWith _ _ le _ c0 m

/-- Settles O46: CTR is XOR with a keystream. -/
theorem ctrMessagesSelfInverse : Obligations.CtrMessagesSelfInverse := by
  intro key nonce m d le c0
  obtain ⟨ks, hks, hcrypt⟩ := ctrCrypt_eq_zipWith key nonce le c0 m.length
  have hlen : (ctrCrypt key nonce m le c0).length = m.length := by simpa [hcrypt m rfl] using hks
  refine ⟨hlen, ?_, fun hd => ?_⟩
  · rw [hcrypt _ hlen, hcrypt m rfl]
    refine List.ext_getElem (by simpa using hks) fun i _ _ => ?_
    simp
  · rw [hcrypt m rfl, hcrypt _ (by simpa using hd.ge)]
    refine List.ext_getElem (by simp; omega) fun i _ _ => ?_
    simp only [List.getElem_zipWith]
    ac_rfl

/-! ### Streaming -/

/-- One block of a stream: a command that succeeds gives its DOUT, and the stream goes on from its state
(44_modes.md R516). -/
theorem streamBlocks_cons {i : Instr} {b : Block} {bs cs : List Block} {s t u : State}
    (hexec : exec i (s.setDin b) = .next t) (herr : t.err = 0x00) (hrest : streamBlocks i bs t = some (cs, u)) :
    streamBlocks i (b :: bs) s = some (t.dout :: cs, u) := by
  simp only [streamBlocks, hexec, if_pos herr, hrest, Option.map_some]

/-- A command whose DOUT is a function of DIN and the round keys, and that keeps the round keys, maps it over the blocks. -/
theorem streamBlocks_map {i : Instr} {f : Block → Vector Block 11 → Block}
    (hexec : ∀ s : State, s.rkValid = true → exec i s = .next { s with dout := f s.din s.rk, err := 0x00 })
    (bs : List Block) {s : State} (hvalid : s.rkValid = true) :
    ∃ t, streamBlocks i bs s = some (bs.map (f · s.rk), t) := by
  induction bs generalizing s with
  | nil => exact ⟨s, rfl⟩
  | cons b bs ih =>
    have hfirst := hexec (s.setDin b) hvalid
    obtain ⟨u, hu⟩ := ih (s := { s.setDin b with dout := f b s.rk, err := 0x00 }) hvalid
    exact ⟨u, streamBlocks_cons hfirst rfl hu⟩

/-- Settles O48: by induction on the blocks (`streamBlocks_map`); under the invariant RK is the schedule of KEY. -/
theorem ecbStreamIsMessage : Obligations.EcbStreamIsMessage := by
  intro s m c bs hinv hvalid hbs
  obtain rfl := blocksOf_eq_some_iff.1 hbs
  simp only [ecbEncrypt, ecbDecrypt, onBlocks_bytesOf, MessageResult.bytes.injEq, ← hinv.1 hvalid]
  constructor
  · intro hc
    obtain ⟨t, ht⟩ := streamBlocks_map (fun s => exec_ecbEnc_success) bs hvalid
    exact ⟨_, t, ht, hc⟩
  · intro hc
    obtain ⟨t, ht⟩ := streamBlocks_map (fun s => exec_ecbDec_success) bs hvalid
    exact ⟨_, t, ht, hc⟩

/-- The IV register holds the previous ciphertext block, which CBC_ENC has just written (44_modes.md R512, R516). -/
theorem streamBlocks_cbcEnc (bs : List Block) {s : State} (hvalid : s.rkValid = true) :
    ∃ t, streamBlocks (.cbcEnc 16) bs s = some (cbcEncryptBlocks s.rk s.iv bs, t) ∧
      t.iv = (cbcEncryptBlocks s.rk s.iv bs).getLastD s.iv := by
  induction bs generalizing s with
  | nil => exact ⟨s, rfl, rfl⟩
  | cons b bs ih =>
    have hfirst := exec_cbcEnc_success (s := s.setDin b) hvalid
    obtain ⟨u, hu, hiv⟩ := ih (s := { s.setDin b with
      dout := cipher (b.xor s.iv) s.rk, iv := cipher (b.xor s.iv) s.rk, err := 0x00 }) hvalid
    exact ⟨u, streamBlocks_cons hfirst rfl hu, hiv.trans (List.getLastD_cons ..).symm⟩

/-- The IV register holds the previous ciphertext block, which CBC_DEC has kept from DIN (44_modes.md R513, R516). -/
theorem streamBlocks_cbcDec (bs : List Block) {s : State} (hvalid : s.rkValid = true) :
    ∃ t, streamBlocks (.cbcDec 16) bs s = some (cbcDecryptBlocks s.rk s.iv bs, t) ∧ t.iv = bs.getLastD s.iv := by
  induction bs generalizing s with
  | nil => exact ⟨s, rfl, rfl⟩
  | cons b bs ih =>
    have hfirst := exec_cbcDec_success (s := s.setDin b) hvalid
    obtain ⟨u, hu, hiv⟩ := ih (s := { s.setDin b with dout := (invCipher b s.rk).xor s.iv, iv := b, err := 0x00 }) hvalid
    exact ⟨u, streamBlocks_cons hfirst rfl hu, hiv.trans (List.getLastD_cons ..).symm⟩

/-- Settles O49: the stream of each command is the loop of its message function; under the invariant RK is the schedule of
KEY. -/
theorem cbcStreamIsMessage : Obligations.CbcStreamIsMessage := by
  intro s m c bs hinv hvalid hbs
  obtain rfl := blocksOf_eq_some_iff.1 hbs
  simp only [cbcEncrypt, cbcDecrypt, onBlocks_bytesOf, MessageResult.bytes.injEq, Option.getD_some, ← hinv.1 hvalid]
  constructor
  · intro hc
    obtain ⟨t, ht, hiv⟩ := streamBlocks_cbcEnc bs hvalid
    exact ⟨_, t, ht, hc, hiv⟩
  · intro hc
    obtain ⟨t, ht, hiv⟩ := streamBlocks_cbcDec bs hvalid
    exact ⟨_, t, ht, hc, hiv⟩

/-- The nonce and the counter in IV are those of the next keystream block (44_modes.md R504, R514). -/
theorem advanceCounter_ctrBlock (nonce : Column × Column) (c : BitVec 64) (le : Bool) :
    advanceCounter (ctrBlock nonce c le) le = ctrBlock nonce (c + 1) le := by
  have hincrement : ctrIncrement (ctrBytes c le) le = ctrBytes (c + 1) le := by rw [ctrIncrement, ctrValue_ctrBytes]
  simp only [advanceCounter, ctrBlock, hincrement]

/-- Every block is the input block of its own nonce and counter (44_modes.md R504). -/
theorem ctrBlock_ctrValue (b : Block) (le : Bool) : ctrBlock (b.c0, b.c1) (ctrValue (b.c2, b.c3) le) le = b := by
  rw [ctrBlock, ctrBytes_ctrValue]

/-- One piece of a stream through CTR_XCRYPT (44_modes.md R516). -/
theorem streamCtr_cons {m : List Byte} {ms : List (List Byte)} {out : List Byte} {s t u : State}
    (hexec : exec (.ctrXcrypt m.length) (s.setDin (loadPartial m s.din)) = .next t) (herr : t.err = 0x00)
    (hrest : streamCtr ms t = some (out, u)) :
    streamCtr (m :: ms) s = some (t.dout.toBytes.take m.length ++ out, u) := by
  simp only [streamCtr, hexec, if_pos herr, hrest, Option.map_some]

/-- The stream of the pieces is the loop of R505: IV holds the nonce and the counter of the piece. -/
theorem streamCtr_pieces {n : Nat} {m : List Byte} (hn : n = ctrBlockCount m) {s : State} (hvalid : s.rkValid = true)
    {nonce : Column × Column} {c : BitVec 64} (hiv : s.iv = ctrBlock nonce c s.ctrLe) :
    ∃ t, streamCtr (pieces n m) s = some (ctrLoop s.rk nonce s.ctrLe n c m, t) ∧
      t.iv = ctrBlock nonce (c + BitVec.ofNat 64 n) s.ctrLe := by
  induction n generalizing m s c with
  | zero => exact ⟨s, rfl, by rw [hiv, BitVec.add_zero]⟩
  | succ n ih =>
    rw [ctrBlockCount] at hn
    have hdrop : n = ctrBlockCount (m.drop 16) := by
      rw [ctrBlockCount, List.length_drop]
      omega
    have hadvance : advanceCounter s.iv s.ctrLe = ctrBlock nonce (c + 1) s.ctrLe := by rw [hiv, advanceCounter_ctrBlock]
    have hlen : (m.take 16).length = min 16 m.length := List.length_take
    have hexec := exec_ctrXcrypt_success (s := s.setDin (loadPartial (m.take 16) s.din)) (len := (m.take 16).length)
      (by omega) (by omega) hvalid
    obtain ⟨u, hu, huiv⟩ := ih hdrop (s := { s with
      din := loadPartial (m.take 16) s.din,
      dout := xorFirst (m.take 16).length (loadPartial (m.take 16) s.din) (cipher s.iv s.rk),
      iv := advanceCounter s.iv s.ctrLe, err := 0x00 }) hvalid hadvance
    refine ⟨u, ?_, ?_⟩
    · rw [pieces, streamCtr_cons hexec rfl hu, ctrLoop, ← hiv, take_toBytes_xorFirst]
      dsimp only [State.setDin_din]
      rw [take_toBytes_loadPartial (by omega)]
      rfl
    · rw [huiv, BitVec.add_assoc, BitVec.add_comm 1, BitVec.ofNat_add]
      rfl

/-- Settles O50: IV is the input block of its nonce and its counter, so the stream is the loop of CTR; under the invariant RK
is the schedule of KEY. -/
theorem ctrStreamIsMessage : Obligations.CtrStreamIsMessage := by
  intro s m hinv hvalid
  rw [ctrCrypt, ← hinv.1 hvalid]
  exact streamCtr_pieces rfl hvalid (ctrBlock_ctrValue s.iv s.ctrLe).symm

end Sys2Proof.Machine
end

section
/-! PROOFS. What a step does with each host event, and NOP (45_system.md R560 to R562; 70_reset_and_hazards.md R700, R710). -/

namespace Sys2Proof.Machine

/-! ### The step -/

/-- A step takes the next event off the list and performs it (45_system.md R562). -/
theorem step_eq_hostEvent {s : State} {e : HostEvent} {rest : List HostEvent} (hp : s.pending = e :: rest) :
    step s = hostEvent e (s.setPending rest) := by
  simp only [step, hostStep, hp]

theorem step_eq_endOfRun {s : State} (hp : s.pending = []) : step s = .fault .endOfRun := by
  simp only [step, hostStep, hp]

/-- The 4-byte write to CMD of a command's word performs the command (20_memory.md R206; 45_system.md R560). -/
theorem hostAccess_cmdWrite {w : Word32} {i : Instr} (h : decodeWord w = .command i) (s : State) :
    hostAccess (.write 4 0x08 w) s = exec i s :=
  (hostAccess_command rfl rfl s).trans (runCommand_command h s)

/-- Settles O18: the next event is performed (`step_eq_hostEvent`), and a CMD write runs its command. -/
theorem stepRunsTheDecodedCommand : Obligations.StepRunsTheDecodedCommand := by
  intro s rest
  refine ⟨fun w i hp hd => ?_, fun _ hp => step_eq_hostEvent hp, fun hp => step_eq_hostEvent hp, step_eq_endOfRun⟩
  exact (step_eq_hostEvent hp).trans (hostAccess_cmdWrite hd _)

/-! ### NOP -/

/-- NOP from every state (45_system.md R561). -/
theorem exec_nop (s : State) : exec .nop s = .next { s with err := 0x00 } := rfl

/-- Settles O51: NOP writes STATUS.ERR alone, also after a command that failed the check of its LEN. -/
theorem nopClearsErr : Obligations.NopClearsErr := by
  refine ⟨noFieldEncoding_of_mask (i := .nop) rfl fun _ _ => rfl, fun w => ?_, exec_nop, fun s => ?_⟩
  · obtain ⟨-, -, hnop⟩ := reservedWordsFailIllegal w State.reset
    exact hnop
  · have hfail : exec (.ecbEnc 15) s = .next { s with err := 0x03 } :=
      exec_of_fieldError (i := .ecbEnc 15) (e := .length) rfl s
    exact ⟨hfail, by rw [execAll_pair hfail, exec_nop]⟩

end Sys2Proof.Machine
end

section
/-! PROOFS. The result code of a command word: the order of its checks, the causes of each code, and that STATUS.ERR is not
sticky (60_exceptions.md R600 to R603). -/

namespace Sys2Proof.Machine

/-! ### A command with no failing check -/

/-- A command whose checks all pass succeeds with 0x00 (60_exceptions.md R602, R603). -/
theorem exec_of_checks_pass {i : Instr} {s : State} (hfield : fieldError i = none)
    (hkeys : needsKeys i = true → s.rkValid = true) : ∃ t, exec i s = .next t ∧ t.err = 0x00 := by
  cases i with
  | nop | keyexp | subbytes | invSubbytes | shiftrows | invShiftrows | mixcolumns | invMixcolumns | gfmul =>
    exact ⟨_, rfl, rfl⟩
  | rkread ridx =>
    have hridx : ridx ≤ 10 := by simpa [fieldError] using hfield
    exact ⟨_, exec_rkread_success hridx (hkeys rfl), rfl⟩
  | addroundkey ridx =>
    have hridx : ridx ≤ 10 := by simpa [fieldError] using hfield
    exact ⟨_, exec_addroundkey_success hridx (hkeys rfl), rfl⟩
  | ecbEnc len | ecbDec len | cbcEnc len | cbcDec len =>
    obtain rfl : len = 16 := by simpa [fieldError] using hfield
    exact ⟨_, congrArg Host.Outcome.next (withWholeBlock_success _ (hkeys rfl)), rfl⟩
  | ctrXcrypt len =>
    obtain ⟨h1, h16⟩ : 1 ≤ len ∧ len ≤ 16 := by simpa [fieldError, Nat.one_le_iff_ne_zero] using hfield
    exact ⟨_, exec_ctrXcrypt_success h1 h16 (hkeys rfl), rfl⟩

/-- Settles O52: one lemma per check, in the order of the checks. -/
theorem errorPriority : Obligations.ErrorPriority := by
  intro w s
  refine ⟨fun hill => runCommand_of_illegal hill s, fun i hd => ?_, ?_⟩
  · rw [runCommand_command hd]
    exact ⟨fun e hfield => exec_of_fieldError hfield s, exec_of_noKey, exec_of_checks_pass⟩
  · have hd : decodeWord 0x00000B26 = .command (.addroundkey 11) := by decide
    rw [runCommand_command hd, exec_addroundkey_ridx (by decide)]

/-! ### The result code of a command word -/

/-- The code of the first check that a command fails, its operand check before RK_VALID; `ok` when it fails none
(60_exceptions.md R602). -/
def commandStatus (i : Instr) (s : State) : CmdStatus :=
  (fieldError i).getD (if needsKeys i = true ∧ s.rkValid = false then .noKey else .ok)

/-- The result code of a command word: the check of the word itself comes first (60_exceptions.md R602). -/
def wordStatus (w : Word32) (s : State) : CmdStatus :=
  match decodeWord w with
  | .illegal _ => .illegal
  | .command i => commandStatus i s

theorem commandStatus_of_fieldError {i : Instr} {e : CmdStatus} (h : fieldError i = some e) (s : State) :
    commandStatus i s = e := by
  rw [commandStatus, h, Option.getD_some]

theorem commandStatus_of_noFieldError {i : Instr} (h : fieldError i = none) (s : State) :
    commandStatus i s = if needsKeys i = true ∧ s.rkValid = false then .noKey else .ok := by
  rw [commandStatus, h, Option.getD_none]

theorem wordStatus_illegal {w : Word32} {why : Illegal} (h : decodeWord w = .illegal why) (s : State) :
    wordStatus w s = .illegal := by
  simp only [wordStatus, h]

theorem wordStatus_command {w : Word32} {i : Instr} (h : decodeWord w = .command i) (s : State) :
    wordStatus w s = commandStatus i s := by
  simp only [wordStatus, h]

/-- A command writes its result code, and with any code but 0x00 it writes nothing else (60_exceptions.md R601, R602). -/
theorem exec_commandStatus (i : Instr) (s : State) : ∃ t, exec i s = .next t ∧ t.err = errCode (commandStatus i s) ∧
    (commandStatus i s ≠ .ok → t = { s with err := t.err }) := by
  cases hfield : fieldError i with
  | some e =>
    rw [commandStatus_of_fieldError hfield]
    exact ⟨_, exec_of_fieldError hfield s, rfl, fun _ => rfl⟩
  | none =>
    rw [commandStatus_of_noFieldError hfield]
    split
    case isTrue hcheck =>
      obtain ⟨hkeys, hvalid⟩ := hcheck
      exact ⟨_, exec_of_noKey hfield hkeys hvalid, rfl, fun _ => rfl⟩
    case isFalse hcheck =>
      obtain ⟨t, ht, herr⟩ := exec_of_checks_pass (s := s) hfield (by simpa using hcheck)
      exact ⟨t, ht, herr, fun hne => absurd rfl hne⟩

/-- A command word writes its result code, and with any code but 0x00 it writes nothing else (60_exceptions.md R601, R602). -/
theorem runCommand_wordStatus (w : Word32) (s : State) :
    ∃ t, runCommand w s = .next t ∧ t.err = errCode (wordStatus w s) ∧
    (wordStatus w s ≠ .ok → t = { s with err := t.err }) := by
  cases hd : decodeWord w with
  | illegal why =>
    rw [wordStatus_illegal hd]
    exact ⟨_, runCommand_illegal hd s, rfl, fun _ => rfl⟩
  | command i =>
    rw [runCommand_command hd, wordStatus_command hd]
    exact exec_commandStatus i s

/-! ### The causes of each code -/

/-- The five result codes are distinct (60_exceptions.md R600). -/
theorem errCode_inj {e e' : CmdStatus} : errCode e = errCode e' ↔ e = e' := by
  cases e <;> cases e' <;> decide

/-- An operand check answers ERR_RIDX or ERR_LENGTH (60_exceptions.md R600, R602). -/
theorem fieldError_ridx_or_length {i : Instr} {e : CmdStatus} (h : fieldError i = some e) : e = .ridx ∨ e = .length := by
  cases i <;> simp_all [fieldError]

/-- ERR_RIDX: RKREAD or ADDROUNDKEY with an index above 10 (60_exceptions.md R600). -/
theorem fieldError_eq_ridx {i : Instr} :
    fieldError i = some .ridx ↔ ∃ ridx, (i = .rkread ridx ∨ i = .addroundkey ridx) ∧ 10 < ridx := by
  cases i <;> simp [fieldError]

/-- ERR_LENGTH: a mode command with LEN outside its legal set (60_exceptions.md R600). -/
theorem fieldError_eq_length {i : Instr} : fieldError i = some .length ↔ ∃ len,
    ((i = .ecbEnc len ∨ i = .ecbDec len ∨ i = .cbcEnc len ∨ i = .cbcDec len) ∧ len ≠ 16) ∨
    (i = .ctrXcrypt len ∧ (len = 0 ∨ 16 < len)) := by
  cases i <;> simp [fieldError]
  case ctrXcrypt => exact or_iff_not_imp_left.symm

/-- A code other than `noKey` and `ok` comes from the operand check. -/
theorem commandStatus_eq_operandCode {i : Instr} {s : State} {e : CmdStatus} (hkey : e ≠ .noKey) (hok : e ≠ .ok) :
    commandStatus i s = e ↔ fieldError i = some e := by
  refine ⟨fun h => ?_, fun h => commandStatus_of_fieldError h s⟩
  cases hfield : fieldError i with
  | some e' => rw [← h, commandStatus_of_fieldError hfield]
  | none =>
    rw [commandStatus_of_noFieldError hfield] at h
    split at h
    · exact absurd h.symm hkey
    · exact absurd h.symm hok

theorem commandStatus_ne_illegal {i : Instr} {s : State} : commandStatus i s ≠ .illegal := fun h =>
  nomatch fieldError_ridx_or_length ((commandStatus_eq_operandCode (by decide) (by decide)).1 h)

theorem commandStatus_eq_noKey {i : Instr} {s : State} :
    commandStatus i s = .noKey ↔ fieldError i = none ∧ needsKeys i = true ∧ s.rkValid = false := by
  cases hfield : fieldError i with
  | some e =>
    rw [commandStatus_of_fieldError hfield]
    rcases fieldError_ridx_or_length hfield with rfl | rfl <;> simp
  | none => simp [commandStatus_of_noFieldError hfield]

section wordStatus

variable {w : Word32} {s : State}

theorem wordStatus_eq_illegal : wordStatus w s = .illegal ↔ ∃ why, decodeWord w = .illegal why := by
  cases hd : decodeWord w with
  | illegal why => simp [wordStatus_illegal hd]
  | command i => simp [wordStatus_command hd, commandStatus_ne_illegal]

theorem wordStatus_eq_ridx : wordStatus w s = .ridx ↔ ∃ ridx,
    (decodeWord w = .command (.rkread ridx) ∨ decodeWord w = .command (.addroundkey ridx)) ∧ 10 < ridx := by
  cases hd : decodeWord w with
  | illegal why => simp [wordStatus_illegal hd]
  | command i => simp [wordStatus_command hd, commandStatus_eq_operandCode, fieldError_eq_ridx]

theorem wordStatus_eq_length : wordStatus w s = .length ↔ ∃ len,
    ((decodeWord w = .command (.ecbEnc len) ∨ decodeWord w = .command (.ecbDec len) ∨
      decodeWord w = .command (.cbcEnc len) ∨ decodeWord w = .command (.cbcDec len)) ∧ len ≠ 16) ∨
    (decodeWord w = .command (.ctrXcrypt len) ∧ (len = 0 ∨ 16 < len)) := by
  cases hd : decodeWord w with
  | illegal why => simp [wordStatus_illegal hd]
  | command i => simp [wordStatus_command hd, commandStatus_eq_operandCode, fieldError_eq_length]

theorem wordStatus_eq_noKey : wordStatus w s = .noKey ↔
    ∃ i, decodeWord w = .command i ∧ fieldError i = none ∧ needsKeys i = true ∧ s.rkValid = false := by
  cases hd : decodeWord w with
  | illegal why => simp [wordStatus_illegal hd]
  | command i => simp [wordStatus_command hd, commandStatus_eq_noKey]

end wordStatus

/-- Settles O53: the code is that of the first failing check (`runCommand_wordStatus`), the codes are distinct, and each check
has its causes. -/
theorem errorCodesAndTheirCauses : Obligations.ErrorCodesAndTheirCauses := by
  intro w s
  obtain ⟨t, ht, herr, hframe⟩ := runCommand_wordStatus w s
  have hcode (e : CmdStatus) : t.err = errCode e ↔ wordStatus w s = e := by rw [herr, errCode_inj]
  refine ⟨t, ht, herr ▸ errCode_le_four _, fun hne => hframe fun hok => hne ((hcode .ok).2 hok), ?_, ?_, ?_, ?_⟩
  · exact (hcode .illegal).trans wordStatus_eq_illegal
  · exact (hcode .ridx).trans wordStatus_eq_ridx
  · exact (hcode .length).trans wordStatus_eq_length
  · exact (hcode .noKey).trans wordStatus_eq_noKey

/-! ### STATUS.ERR is not sticky -/

/-- A command that uses the round keys does not depend on STATUS.ERR when its effect, up to STATUS.ERR, does not. -/
theorem withSchedule_setErr {effect : State → State} {s : State} {v : Byte}
    (heffect : succeed (effect (s.setErr v)) = succeed (effect s)) (fieldOk : Bool) (e : CmdStatus) :
    withSchedule fieldOk e effect (s.setErr v) = withSchedule fieldOk e effect s := by
  rcases withSchedule_cases fieldOk e effect s with ⟨hf, h⟩ | ⟨hf, hv, h⟩ | ⟨hf, hv, h⟩ <;> rw [h]
  · exact withSchedule_fieldError hf e effect (s.setErr v)
  · exact withSchedule_noKey hf e effect (s := s.setErr v) hv
  · exact (withSchedule_success hf e effect (s := s.setErr v) hv).trans heffect

/-- No command reads STATUS.ERR (60_exceptions.md R603). -/
theorem exec_setErr (i : Instr) (s : State) (v : Byte) : exec i (s.setErr v) = exec i s := by
  cases i with
  | nop | keyexp | subbytes | invSubbytes | shiftrows | invShiftrows | mixcolumns | invMixcolumns | gfmul => rfl
  | rkread | addroundkey | ecbEnc | ecbDec | cbcEnc | cbcDec | ctrXcrypt =>
    exact congrArg Host.Outcome.next (withSchedule_setErr rfl _ _)

theorem runCommand_setErr (w : Word32) (s : State) (v : Byte) : runCommand w (s.setErr v) = runCommand w s := by
  cases hd : decodeWord w with
  | illegal why =>
    rw [runCommand_illegal hd, runCommand_illegal hd]
    rfl
  | command i => rw [runCommand_command hd, runCommand_command hd, exec_setErr]

/-- Settles O54: no command word reads STATUS.ERR, and a command whose checks pass writes 0x00. -/
theorem errIsNotSticky : Obligations.ErrIsNotSticky := by
  refine fun w s v => ⟨runCommand_setErr w s v, fun i hd hfield hkeys => ?_⟩
  rw [runCommand_command hd]
  exact exec_of_checks_pass (s := s.setErr v) hfield hkeys

end Sys2Proof.Machine
end

section
/-! PROOFS. The registers after a reset, and that the commands that need round keys fail after it until KEYEXP is written
(70_reset_and_hazards.md R700 to R702). -/

namespace Sys2Proof.Machine

/-! ### From reset to KEYEXP -/

/-- A step that completes takes exactly its event off the list (45_system.md R562). -/
theorem pending_of_step {s t : State} (h : step s = .next t) : ∃ e, s.pending = e :: t.pending := by
  cases hp : s.pending with
  | nil => cases (step_eq_endOfRun hp).symm.trans h
  | cons e rest =>
    rcases step_of_pending_cons hp with ⟨_, hfault⟩ | ⟨_, u, hu, hrest, _⟩
    · cases hfault.symm.trans h
    · obtain rfl : u = t := Host.Outcome.next.inj (hu.symm.trans h)
      exact ⟨e, by rw [hrest]⟩

/-- Every step but the CMD write of KEYEXP keeps RK_VALID at 0 (10_state.md R111). -/
theorem step_keeps_notValid {s t : State} (hvalid : s.rkValid = false)
    (hno : s.pending.head? ≠ some (.access (.write 4 0x08 0x00000001))) (h : step s = .next t) : t.rkValid = false := by
  rcases step_cases h with ⟨rest, _, rfl⟩ | ⟨n, o, rest, _, _, rfl⟩ | ⟨n, o, v, rest, hp, hadm, hc, hrun⟩ |
    ⟨n, o, v, rest, _, _, _, rfl⟩
  · rfl
  · exact hvalid
  · rcases runCommand_cases hrun with ⟨rfl, _⟩ | ⟨_, hkeeps⟩
    · obtain ⟨_, hwrite⟩ := writeLanesLittleEndian s n o 0x00000001
      obtain ⟨hcommand, _⟩ := hwrite hadm
      obtain ⟨rfl, rfl, _⟩ := hcommand ((windowByte_command o).1 hc)
      exact absurd (hp ▸ List.head?_cons) hno
    · exact hkeeps.rkValid.trans hvalid
  · exact storeLanes_keeps_notValid (s := s.setPending rest) hvalid

/-- A run of at least one event that completes has completed its first step (70_reset_and_hazards.md R710). -/
theorem step_of_run_succ {M : Host.Core} {k : Nat} {s t : M.State} (h : M.run (k + 1) s = .next t) :
    ∃ u, M.step s = .next u ∧ M.run k u = .next t := by
  rw [Host.Core.run] at h
  split at h
  · next u hstep => exact ⟨u, hstep, h⟩
  · cases h
  · cases h

/-- RK_VALID stays 0 in every run without the CMD write of KEYEXP (10_state.md R111; 70_reset_and_hazards.md R702). -/
theorem runEvents_keeps_notValid {k : Nat} {s t : State} (hvalid : s.rkValid = false)
    (hno : .access (.write 4 0x08 0x00000001) ∉ s.pending.take k) (hrun : runEvents k s = .next t) : t.rkValid = false := by
  induction k generalizing s with
  | zero => exact Host.Outcome.next.inj hrun ▸ hvalid
  | succ k ih =>
    obtain ⟨u, hstep, hrest⟩ := step_of_run_succ (M := Sys2Proof.core) hrun
    obtain ⟨e, hp⟩ := pending_of_step hstep
    rw [hp, List.take_succ_cons, List.mem_cons, not_or] at hno
    obtain ⟨hfirst, hlater⟩ := hno
    refine ih (step_keeps_notValid hvalid (fun hhead => hfirst ?_) hstep) hlater hrest
    rw [hp, List.head?_cons] at hhead
    exact (Option.some.inj hhead).symm

/-- Settles O56: RK_VALID is 0 after reset, stays 0 until KEYEXP is written (`runEvents_keeps_notValid`), and is the check
such a command fails (`exec_of_noKey`). -/
theorem noKeyAfterReset : Obligations.NoKeyAfterReset := by
  refine ⟨fun _ _ _ => ⟨rfl, rfl⟩, fun _ _ => step_keeps_notValid, fun i hkeys hfield => ⟨fun s => ?_, ?_, fun s => ?_⟩⟩
  · exact exec_of_noKey hfield hkeys
  · intro n k p r t hno hrun
    exact exec_of_noKey hfield hkeys (runEvents_keeps_notValid (s := State.afterReset n p r) rfl hno hrun)
  · obtain ⟨u, hu, herr⟩ := exec_of_checks_pass
      (s := { s with rk := keyExpansion s.key, rkValid := true, err := 0x00 }) hfield fun _ => rfl
    exact ⟨_, u, exec_keyexp s, hu, herr⟩

/-! ### The registers after a reset -/

/-- After a reset every byte of the window but CTRL reads 0x00, and CTRL reads 0x01 for CTR_LE
(70_reset_and_hazards.md R701; 20_memory.md R207). -/
theorem readByte_afterReset (n : Nat) (p : List HostEvent) (r : List BusValue) (x : BitVec 8) :
    readByte (State.afterReset n p r) x = if x = 0x00 then 0x01 else 0x00 := by
  split
  case isTrue hx =>
    subst hx
    rfl
  case isFalse hx =>
    unfold readByte
    cases hw : windowByte x with
    | ctrl =>
      have hn : x.toNat = 0x00 := offset_of_windowByte hw
      exact absurd (BitVec.eq_of_toNat_eq hn) hx
    | statusErr | statusRkValid | command | gfA | gfB | gfP | reserved => rfl
    | key i | iv i | din i | dout i | st i => exact Block.byte_zero i

/-- Settles O55: each register by its value in `State.afterReset`, and the window by the register map
(`readByte_afterReset`). -/
theorem resetState : Obligations.ResetState := by
  refine ⟨fun n p r => ⟨rfl, rfl, rfl, rfl, rfl, rfl, fun i => ?_, readByte_afterReset n p r⟩, rfl⟩
  have hbyte := Block.byte_zero i
  exact ⟨hbyte, hbyte, hbyte, hbyte, hbyte⟩

end Sys2Proof.Machine
end
